-- ==== Sys2Proof/Word.lean ====
section
/-! DEFINITION. The word types of the block, its twelve register kinds and its seven command names. -/

namespace Sys2Proof

/-- One byte on the wire or in a buffer. -/
abbrev Byte := BitVec 8

/-- A 16-bit register, device address, user address or length (00_scope R8: `ADDR_W`, `LEN_W`, `DEV_W`). -/
abbrev Word := BitVec 16

/-- A 32-bit register pair (43_payload_codec R228). -/
abbrev DWord := BitVec 32

/-- A command word on the command port (30_encoding R80). -/
abbrev CmdWord := BitVec 40

/-- The data port that goes with a command word, bounded at 512 lanes (10_state R24; log 8). -/
abbrev DataPort := BitVec 512

/-- The twelve register kinds, a closed set (20_memory R50), in the order of 30_encoding R82. -/
inductive Kind where
  | state | inputContact | outputContact | timerContact | contact | memoryContact | memorySpecial
  | counter32 | timerCounter16 | data | dataSpecial | counter16
deriving DecidableEq, Repr

/-- The classes of register kinds (20_memory R51). -/
inductive KindClass where
  | bit | w16 | w32
deriving DecidableEq, Repr

/-- The seven operations the `op` field selects (30_encoding R81). -/
inductive Op where
  | readBits | writeBits | forceSet | forceClear | readW16 | readW32 | writeW16
deriving DecidableEq, Repr

/-- Every kind once, in code order. -/
def Kind.all : List Kind :=
  [.state, .inputContact, .outputContact, .timerContact, .contact, .memoryContact, .memorySpecial,
   .counter32, .timerCounter16, .data, .dataSpecial, .counter16]

end Sys2Proof
end

