-- ==== Sys2Proof/Config.lean ====
section
/-! DEFINITION. What is fixed when the block is built: the register map, the switches and the fixed sizes
(00_scope R8, R9; 20_memory R52). No value of the spec is left to an implementation beyond these, so there is no
free value here. -/

namespace Sys2Proof

/-- One entry of the register map (20_memory R52). `base` and `fbase` are device addresses, `min` and `max` user
addresses, `nbase` the number base of the digit check, `unit` the unit size in bytes (0 for a bit kind). -/
structure MapEntry where
  base  : Word
  min   : Word
  max   : Word
  nbase : Nat
  unit  : Nat
  fbase : Word
deriving DecidableEq, Repr

/-- The register map: one entry per kind of the closed set (20_memory R52, R53). -/
structure RegMap where
  state          : MapEntry
  inputContact   : MapEntry
  outputContact  : MapEntry
  timerContact   : MapEntry
  contact        : MapEntry
  memoryContact  : MapEntry
  memorySpecial  : MapEntry
  counter32      : MapEntry
  timerCounter16 : MapEntry
  data           : MapEntry
  dataSpecial    : MapEntry
  counter16      : MapEntry
deriving DecidableEq, Repr

/-- `CHECKSUM_MATCH` (00_scope R8, 41_frame_codec R153). -/
inductive ChecksumMatch where
  | both | either
deriving DecidableEq, Repr

/-- `READ_BITS_ORIGIN` (00_scope R8, 43_payload_codec R222). -/
inductive BitsOrigin where
  | requested | byteBoundary
deriving DecidableEq, Repr

/-- The configuration `cfg` (10_state R21). -/
structure Cfg where
  regmap         : RegMap
  checksumMatch  : ChecksumMatch
  checkMarkers   : Bool
  hexAcceptLower : Bool
  readBitsOrigin : BitsOrigin
deriving DecidableEq, Repr

/-- `MAX_BYTES`, fixed at 64 (00_scope R8). -/
def maxBytes : Nat := 64

/-- Size of the transmit buffer (00_scope R9). -/
def txSize : Nat := 139

/-- Size of the receive buffer (00_scope R9). -/
def rxSize : Nat := 132

/-- Size of the data latches and of the result port, in bits and in words (10_state R20). -/
def maxDataBits : Nat := 512

/-- See `maxDataBits`. -/
def maxDataWords : Nat := 32

/-- `TESTMAP` (95_test_vectors section 1): a well-formed map, not normative (92 D39). -/
def testMap : RegMap where
  state          := ⟨0x0000, 0, 999, 10, 0, 0x0000⟩
  inputContact   := ⟨0x0080, 0, 377, 8, 0, 0x0400⟩
  outputContact  := ⟨0x00A0, 0, 377, 8, 0, 0x0500⟩
  timerContact   := ⟨0x00C0, 0, 255, 10, 0, 0x0600⟩
  contact        := ⟨0x01C0, 0, 255, 10, 0, 0x0E00⟩
  memoryContact  := ⟨0x0100, 0, 1535, 10, 0, 0x0800⟩
  memorySpecial  := ⟨0x01E0, 8000, 8255, 10, 0, 0x0F00⟩
  counter32      := ⟨0x0C00, 200, 255, 10, 4, 0x0000⟩
  timerCounter16 := ⟨0x0800, 0, 255, 10, 2, 0x0000⟩
  data           := ⟨0x1000, 0, 511, 10, 2, 0x0000⟩
  dataSpecial    := ⟨0x0E00, 8000, 8255, 10, 2, 0x0000⟩
  counter16      := ⟨0x0A00, 0, 199, 10, 2, 0x0000⟩

/-- The configuration of `State.reset` (DESIGN CHOICE, log 2): `TESTMAP` with the default switches of 00_scope R8. -/
def defaultCfg : Cfg := ⟨testMap, .both, true, false, .requested⟩

end Sys2Proof
end

