-- ==== Sys2Proof/Syntax.lean ====
section
/-! DEFINITION. The commands of the block as terms: one constructor per row of spec/opcode_table.json. -/

namespace Sys2Proof

/-- A command (30_encoding R80, R81): the register kind, the user address as the caller writes it (R83), and the
length in units (bits, 16-bit registers or 32-bit registers; ignored by the two forces). The write data is no part
of the 40-bit word: it is an operand on the data port (R84). -/
inductive Instr where
  | readBits   (kind : Kind) (addr len : Word)
  | writeBits  (kind : Kind) (addr len : Word)
  | forceSet   (kind : Kind) (addr len : Word)
  | forceClear (kind : Kind) (addr len : Word)
  | readW16    (kind : Kind) (addr len : Word)
  | readW32    (kind : Kind) (addr len : Word)
  | writeW16   (kind : Kind) (addr len : Word)
deriving DecidableEq, Repr

/-- The operation of a command. -/
def Instr.op : Instr → Op
  | .readBits _ _ _ => .readBits
  | .writeBits _ _ _ => .writeBits
  | .forceSet _ _ _ => .forceSet
  | .forceClear _ _ _ => .forceClear
  | .readW16 _ _ _ => .readW16
  | .readW32 _ _ _ => .readW32
  | .writeW16 _ _ _ => .writeW16

/-- The register kind of a command. -/
def Instr.kind : Instr → Kind
  | .readBits k _ _ => k
  | .writeBits k _ _ => k
  | .forceSet k _ _ => k
  | .forceClear k _ _ => k
  | .readW16 k _ _ => k
  | .readW32 k _ _ => k
  | .writeW16 k _ _ => k

/-- The user address of a command. -/
def Instr.addr : Instr → Word
  | .readBits _ a _ => a
  | .writeBits _ a _ => a
  | .forceSet _ a _ => a
  | .forceClear _ a _ => a
  | .readW16 _ a _ => a
  | .readW32 _ a _ => a
  | .writeW16 _ a _ => a

/-- The length field of a command. -/
def Instr.len : Instr → Word
  | .readBits _ _ n => n
  | .writeBits _ _ n => n
  | .forceSet _ _ n => n
  | .forceClear _ _ n => n
  | .readW16 _ _ n => n
  | .readW32 _ _ n => n
  | .writeW16 _ _ n => n

end Sys2Proof
end

