-- ==== Sys2Proof/WellFormed.lean ====
section
/-! DEFINITION. Which commands are admitted inputs of the block. -/

namespace Sys2Proof

/-- An admitted command (30_encoding R85, 40_address_decoder R121): a length of 0 is admitted for the two forces
only. Kind, address and length are of closed types, so nothing else can be ill-formed; a kind of the wrong class is
a legal spelling that the block answers with IncorrectDataType (R124). -/
def Instr.wellFormed (i : Instr) : Bool :=
  match i.op with
  | .forceSet | .forceClear => true
  | .readBits | .writeBits | .readW16 | .readW32 | .writeW16 => i.len != 0

end Sys2Proof
end

