-- ==== Sys2Proof/Decode.lean ====
section
/-! DEFINITION. The encoding of the command word (30_encoding R80 to R85): the code tables, the decoder, total on
every 40-bit word and refusing by name, the encoder written from the same tables, and the opcode table's rows. -/

namespace Sys2Proof

/-- The `op` code of an operation (30_encoding R81). -/
def opCode : Op → BitVec 4
  | .readBits => 0x0
  | .writeBits => 0x1
  | .forceSet => 0x2
  | .forceClear => 0x3
  | .readW16 => 0x4
  | .readW32 => 0x5
  | .writeW16 => 0x6

/-- The operation an `op` code selects; 0x7 to 0xF are reserved (30_encoding R81). -/
def opOfCode (c : BitVec 4) : Option Op :=
  match c.toNat with
  | 0x0 => some .readBits
  | 0x1 => some .writeBits
  | 0x2 => some .forceSet
  | 0x3 => some .forceClear
  | 0x4 => some .readW16
  | 0x5 => some .readW32
  | 0x6 => some .writeW16
  | _ => none

/-- The `kind` code of a register kind (30_encoding R82). -/
def kindCode : Kind → BitVec 4
  | .state => 0x0
  | .inputContact => 0x1
  | .outputContact => 0x2
  | .timerContact => 0x3
  | .contact => 0x4
  | .memoryContact => 0x5
  | .memorySpecial => 0x6
  | .counter32 => 0x7
  | .timerCounter16 => 0x8
  | .data => 0x9
  | .dataSpecial => 0xA
  | .counter16 => 0xB

/-- The register kind a `kind` code selects; 0xC to 0xF are no kind (30_encoding R82). -/
def kindOfCode (c : BitVec 4) : Option Kind :=
  match c.toNat with
  | 0x0 => some .state
  | 0x1 => some .inputContact
  | 0x2 => some .outputContact
  | 0x3 => some .timerContact
  | 0x4 => some .contact
  | 0x5 => some .memoryContact
  | 0x6 => some .memorySpecial
  | 0x7 => some .counter32
  | 0x8 => some .timerCounter16
  | 0x9 => some .data
  | 0xA => some .dataSpecial
  | 0xB => some .counter16
  | _ => none

/-- `CMD[3:0]` (30_encoding R80). -/
def opField (w : CmdWord) : BitVec 4 := w.extractLsb' 0 4

/-- `CMD[7:4]` (30_encoding R80). -/
def kindField (w : CmdWord) : BitVec 4 := w.extractLsb' 4 4

/-- `CMD[23:8]` (30_encoding R80). -/
def addrField (w : CmdWord) : Word := w.extractLsb' 8 16

/-- `CMD[39:24]` (30_encoding R80). -/
def lenField (w : CmdWord) : Word := w.extractLsb' 24 16

/-- The command of an operation with its three fields. -/
def mkInstr (op : Op) (k : Kind) (addr len : Word) : Instr :=
  match op with
  | .readBits => .readBits k addr len
  | .writeBits => .writeBits k addr len
  | .forceSet => .forceSet k addr len
  | .forceClear => .forceClear k addr len
  | .readW16 => .readW16 k addr len
  | .readW32 => .readW32 k addr len
  | .writeW16 => .writeW16 k addr len

/-- Why a word spells no command (30_encoding R85). -/
inductive DecodeError where
  /-- `op` in 0x7 to 0xF. -/
  | reservedOp (op : BitVec 4)
  /-- a defined `op`, with `kind` in 0xC to 0xF. -/
  | reservedKind (kind : BitVec 4)
deriving DecidableEq, Repr

/-- The decoder (30_encoding R80 to R82, R85). -/
def decode (w : CmdWord) : Except DecodeError Instr :=
  match opOfCode (opField w) with
  | none => .error (.reservedOp (opField w))
  | some op =>
    match kindOfCode (kindField w) with
    | none => .error (.reservedKind (kindField w))
    | some k => .ok (mkInstr op k (addrField w) (lenField w))

/-- The encoder: `llllllllllllllll aaaaaaaaaaaaaaaa kkkk oooo`, most significant bit first (30_encoding R80). -/
def encode (i : Instr) : CmdWord :=
  (((i.len ++ i.addr : BitVec 32) ++ kindCode i.kind : BitVec 36) ++ opCode i.op : BitVec 40)

/-- The instruction the decoder reads from a row's word of `nbits` bits. -/
def decodeTableWord (nbits w : Nat) : Option Instr :=
  if w % 2 ^ nbits < 2 ^ 40 then (decode (BitVec.ofNat 40 (w % 2 ^ nbits))).toOption else none

/-- The pseudo-command `FORCE <kind>, <addr>, <v>` (30_encoding R97), with a length field of 0. -/
def forcePseudo (k : Kind) (addr : Word) (v : Bool) : Instr :=
  if v then .forceSet k addr 0 else .forceClear k addr 0

/-- One row of spec/opcode_table.json: a word belongs to the row when its bits under `mask` are `pattern`. -/
structure OpcodeRow where
  op      : Op
  mask    : CmdWord
  pattern : CmdWord
deriving DecidableEq, Repr

/-- The rows of spec/opcode_table.json, in its order. -/
def opcodeRows : List OpcodeRow :=
  [⟨.readBits,   0x000000000F, 0x0000000000⟩,
   ⟨.writeBits,  0x000000000F, 0x0000000001⟩,
   ⟨.forceSet,   0x000000000F, 0x0000000002⟩,
   ⟨.forceClear, 0x000000000F, 0x0000000003⟩,
   ⟨.readW16,    0x000000000F, 0x0000000004⟩,
   ⟨.readW32,    0x000000000F, 0x0000000005⟩,
   ⟨.writeW16,   0x000000000F, 0x0000000006⟩]

/-- Whether a word belongs to a row. -/
def OpcodeRow.covers (r : OpcodeRow) (w : CmdWord) : Bool := w &&& r.mask == r.pattern

end Sys2Proof
end

