-- ==== Sys2Proof/Machine/State.lean ====
section
/-! DEFINITION. The state of the block (10_state R20 to R37), its inputs and outputs at the three ports, the reasons
for which it stops, and the state after reset. A field that the spec leaves unwritten holds no value: `none`, or an
array with no element (10_state R34, R35; log 3). -/

namespace Sys2Proof.Machine

/-- The six values of the transaction sequencer (10_state R22). -/
inductive Fsm where
  | idle | building | awaiting | validating | success | failed
deriving DecidableEq, Repr

/-- The result kinds (60_exceptions R250). -/
inductive ResKind where
  | success | incorrectAddressFormat | addressOutOfRange | incorrectDataType | tooManyBytes | addressMisaligned
  | transmitFailure | timeout | checksumMismatch | notAcknowledged | inProgress | malformedResponse
deriving DecidableEq, Repr

/-- The command latch `cmd_op`, `cmd_kind`, `cmd_addr`, `cmd_len`, written as one (10_state R24). -/
structure CmdLatch where
  op   : Op
  kind : Kind
  addr : Word
  len  : Word
deriving DecidableEq, Repr

/-- `ra_lin` and `ra_dev`, written by every build (10_state R25). -/
structure RaAddr where
  lin : Nat
  dev : Word
deriving DecidableEq, Repr

/-- `ra_first`, `ra_last` and `ra_bc`, written by every build but a force's (10_state R25). -/
structure RaSpan where
  first : Nat
  last  : Nat
  bc    : BitVec 7
deriving DecidableEq, Repr

/-- A command waiting at the command port: its word and its data port (30_encoding R80, R84). Lane `j` of the data
port is `D[j]` of a WRITE_BITS, and lanes `16i+15` to `16i` are `W[i]` of a WRITE_W16 (log 8). -/
structure Offer where
  word : CmdWord
  data : DataPort
deriving DecidableEq, Repr

/-- An answer of the transport to `Recv` (60_exceptions R273): an error, or the bytes that arrived in time (log 24). -/
inductive ReadAnswer where
  | error
  | bytes (b : List Byte)
deriving DecidableEq, Repr

/-- The operations of the transport contract (60_exceptions R270), as calls the block could make. -/
inductive TransportCall where
  | openPort | closePort | isConnected | availableBytes
  | write (frame : List Byte)
  | read (count : Nat)
  | flushInput | flushOutput
deriving DecidableEq, Repr

/-- What a caller gets beside the result kind (42_transactions R177). -/
inductive Payload where
  | none
  | bits (b : List Bool)
  | words (w : List Word)
deriving DecidableEq, Repr

/-- A result a caller took (42_transactions R177). -/
structure Delivery where
  kind    : ResKind
  payload : Payload
deriving DecidableEq, Repr

/-- The state: the record of 10_state R20 (`cfg` to `outWords`), then the block's inputs and outputs (log 1). -/
structure State where
  cfg          : Cfg
  fsm          : Fsm
  cmd          : Option CmdLatch
  wdataBits    : List Bool
  wdataWords   : List Word
  raAddr       : Option RaAddr
  raSpan       : Option RaSpan
  tx           : List Byte
  txLen        : Option (BitVec 8)
  rx           : List Byte
  rxExp        : Option (BitVec 8)
  rxLen        : Option (BitVec 8)
  resKind      : ResKind
  resValid     : Bool
  outBits      : List Bool
  outWords     : List Word
  resets       : List Bool
  offers       : List Offer
  turns        : List Nat
  flushAnswers : List Bool
  writeAnswers : List Int
  readAnswers  : List ReadAnswer
  takes        : Nat
  calls        : List TransportCall
  delivered    : List Delivery
deriving DecidableEq, Repr

/-- Why the machine stops with a fault. Both are safe: the spec's block never gets there from a good state, and the
model stops where it would have to invent a value. -/
inductive Fault where
  /-- A rule read a field that holds no value (10_state R35, 93 I13). Raised by fetching a command from an unwritten
  latch and by the build, await and validate steps. Safe. -/
  | unwrittenRead
  /-- A value does not fit its field (00_scope R10, 20_memory R56). Raised by the build step, under an ill-formed
  map only. Safe. -/
  | fieldOverflow
deriving DecidableEq, Repr

/-- Why the model has no step for an input. All are safe: the spec refuses the same inputs (log 21). -/
inductive Refusal where
  /-- An instruction whose meaning has not been written. Raised by no arm of this model. Safe. -/
  | notModelled (mnemonic : String)
  /-- A word that spells no command (30_encoding R85). Raised by the step in `IDLE`. Safe. -/
  | reservedEncoding
  /-- Length 0 on a command that is no force (40_address_decoder R121). Raised by the build step. Safe. -/
  | zeroLength
  /-- An ill-formed register map (70_reset_and_hazards R293, 92 D35). Raised by every step but a reset. Safe. -/
  | illFormedConfig
deriving DecidableEq, Repr

/-- The three outcomes of a step of this machine. -/
abbrev Outcome := Host.Outcome State Fault Refusal

/-- The state after reset (10_state R34, 70_reset_and_hazards R290), with nothing at the ports. The spec gives `cfg`
no value of its own here: the value is a DESIGN CHOICE (log 2). -/
def State.reset : State where
  cfg          := defaultCfg
  fsm          := .idle
  cmd          := none
  wdataBits    := []
  wdataWords   := []
  raAddr       := none
  raSpan       := none
  tx           := []
  txLen        := none
  rx           := []
  rxExp        := none
  rxLen        := none
  resKind      := .inProgress
  resValid     := false
  outBits      := []
  outWords     := []
  resets       := []
  offers       := []
  turns        := []
  flushAnswers := []
  writeAnswers := []
  readAnswers  := []
  takes        := 0
  calls        := []
  delivered    := []

end Sys2Proof.Machine
end

