-- ==== Sys2Proof/Machine/Flags.lean ====
section
/-! DEFINITION. The block has no condition codes (10_state R32). Its status indications are `busy`, `res_valid` and
`res_kind`; here are their codes and how they follow from the sequencer. -/

namespace Sys2Proof.Machine

/-- The 3-bit code of a sequencer value (10_state R22). -/
def fsmCode : Fsm → BitVec 3
  | .idle => 0
  | .building => 1
  | .awaiting => 2
  | .validating => 3
  | .success => 4
  | .failed => 5

/-- The 4-bit code of a result kind (60_exceptions R250). -/
def resKindCode : ResKind → BitVec 4
  | .success => 0
  | .incorrectAddressFormat => 1
  | .addressOutOfRange => 2
  | .incorrectDataType => 3
  | .tooManyBytes => 4
  | .addressMisaligned => 5
  | .transmitFailure => 6
  | .timeout => 7
  | .checksumMismatch => 8
  | .notAcknowledged => 9
  | .inProgress => 10
  | .malformedResponse => 11

/-- `busy = (fsm ≠ IDLE)` (10_state R30). -/
def busy (s : State) : Bool := s.fsm != .idle

/-- The sequencer values in which a result is offered (10_state R29). -/
def resultOffered : Fsm → Bool
  | .idle | .building | .awaiting | .validating => false
  | .success | .failed => true

/-- Whether a kind is the kind of a failure: neither Success nor InProgress (60_exceptions R250, R253). -/
def isFailure : ResKind → Bool
  | .success | .inProgress => false
  | .incorrectAddressFormat | .addressOutOfRange | .incorrectDataType | .tooManyBytes | .addressMisaligned
  | .transmitFailure | .timeout | .checksumMismatch | .notAcknowledged | .malformedResponse => true

end Sys2Proof.Machine
end

