-- ==== Sys2Proof/Machine/Operands.lean ====
section
/-! DEFINITION. The operands of a command: its register kind, the map entry the kind selects, the check of the map,
and the address decoder with its octal-style converter (20_memory R50 to R60; 40_address_decoder R110 to R129). -/

namespace Sys2Proof.Machine

/-- `class(kind)` (20_memory R51). -/
def kindClass : Kind → KindClass
  | .state | .inputContact | .outputContact | .timerContact | .contact | .memoryContact | .memorySpecial => .bit
  | .counter32 => .w32
  | .timerCounter16 | .data | .dataSpecial | .counter16 => .w16

/-- The class of kinds an operation admits (30_encoding R98). -/
def opClass : Op → KindClass
  | .readBits | .writeBits | .forceSet | .forceClear => .bit
  | .readW16 | .writeW16 => .w16
  | .readW32 => .w32

/-- Whether an operation admits a kind (30_encoding R98). -/
def admits (op : Op) (k : Kind) : Bool := kindClass k == opClass op

/-- The two force operations. -/
def isForce : Op → Bool
  | .forceSet | .forceClear => true
  | .readBits | .writeBits | .readW16 | .readW32 | .writeW16 => false

/-- The three read operations. -/
def isRead : Op → Bool
  | .readBits | .readW16 | .readW32 => true
  | .writeBits | .forceSet | .forceClear | .writeW16 => false

/-- `REGMAP(kind)`: the map is looked up by kind only, and every kind has an entry (20_memory R52, R53). -/
def mapEntry (m : RegMap) : Kind → MapEntry
  | .state => m.state
  | .inputContact => m.inputContact
  | .outputContact => m.outputContact
  | .timerContact => m.timerContact
  | .contact => m.contact
  | .memoryContact => m.memoryContact
  | .memorySpecial => m.memorySpecial
  | .counter32 => m.counter32
  | .timerCounter16 => m.timerCounter16
  | .data => m.data
  | .dataSpecial => m.dataSpecial
  | .counter16 => m.counter16

/-- The kinds whose user addresses are octal-style (40_address_decoder R114). -/
def octalStyle : Kind → Bool
  | .inputContact | .outputContact => true
  | .state | .timerContact | .contact | .memoryContact | .memorySpecial | .counter32 | .timerCounter16 | .data
  | .dataSpecial | .counter16 => false

/-- Step 4, the linear address of a normalised address (40_address_decoder R114, R115). -/
def linearise (k : Kind) (n : Nat) : Nat :=
  if octalStyle k then 8 * (n / 10) + n % 10 else n

/-! ### The check of the register map -/

/-- `Lmax` of 20_memory R56: the largest linear address of a user address in `[min, max]`, where `n` is
`max − min`. For an octal-style kind the decade before the last can reach one address further than `n` itself
(DEDUCED, log 10). -/
def maxLinear (k : Kind) (n : Nat) : Nat :=
  if octalStyle k then
    if n < 10 then n else 8 * (n / 10) + max (n % 10) 1
  else n

/-- The number base a well-formed map gives a kind (20_memory R54). -/
def wantedBase (k : Kind) : Nat := if octalStyle k then 8 else 10

/-- The unit size a well-formed map gives a kind (20_memory R55). -/
def wantedUnit (k : Kind) : Nat :=
  match kindClass k with
  | .bit => 0
  | .w16 => 2
  | .w32 => 4

/-- Every device address the decoder can compute for an in-range user address fits 16 bits (20_memory R56). -/
def addressesFit (k : Kind) (e : MapEntry) : Bool :=
  let top := maxLinear k (e.max.toNat - e.min.toNat)
  match kindClass k with
  | .bit => decide (e.base.toNat + top / 8 ≤ 0xFFFF) && decide (e.fbase.toNat + top ≤ 0xFFFF)
  | .w16 => decide (e.base.toNat + 2 * top ≤ 0xFFFF)
  | .w32 => decide (e.base.toNat + 4 * top ≤ 0xFFFF)

/-- An entry is well-formed for its kind (20_memory R54, R55, R56). -/
def entryWf (k : Kind) (e : MapEntry) : Bool :=
  e.nbase == wantedBase k && e.unit == wantedUnit k && decide (e.min.toNat ≤ e.max.toNat) && addressesFit k e

/-- The equalities the document's scenarios fix (20_memory R57). -/
def scenariosWf (m : RegMap) : Bool :=
  (decide (m.data.min.toNat ≤ 20) && decide (20 ≤ m.data.max.toNat)
    && m.data.base.toNat + 2 * (20 - m.data.min.toNat) == 0x1028)
  && (decide (m.outputContact.min.toNat ≤ 10) && decide (10 ≤ m.outputContact.max.toNat)
    && 8 * ((10 - m.outputContact.min.toNat) / 10) + (10 - m.outputContact.min.toNat) % 10 == 8
    && m.outputContact.base.toNat + 1 == 0x00A1)
  && (m.memoryContact.min.toNat == 0 && decide (500 ≤ m.memoryContact.max.toNat)
    && m.memoryContact.fbase.toNat == 0x0800)

/-- A well-formed register map (20_memory R54 to R57). -/
def regMapWf (m : RegMap) : Bool :=
  Kind.all.all (fun k => entryWf k (mapEntry m k)) && scenariosWf m

/-- A well-formed configuration (70_reset_and_hazards R293); every value of the four switches is legal. -/
def cfgWf (c : Cfg) : Bool := regMapWf c.regmap

/-! ### The address decoder -/

/-- What a decoder function answers: a value, a result kind that fails the command, or a refusal. -/
inductive Decoded (α : Type) where
  | ok (a : α)
  | fail (k : ResKind)
  | refuse (r : Refusal)
deriving DecidableEq, Repr

/-- A resolved address on unbounded naturals (40_address_decoder R110, 00_scope R10). -/
structure Resolved where
  lin   : Nat
  dev   : Nat
  first : Nat
  last  : Nat
  bc    : Nat
deriving DecidableEq, Repr

/-- A resolved forced bit (40_address_decoder R120). -/
structure ResolvedBit where
  lin : Nat
  dev : Nat
deriving DecidableEq, Repr

/-- Steps 1 to 4, which both decoder functions run: the digit check, the range check, the normalised and then the
linear address (40_address_decoder R111 to R115). -/
def linearOf (k : Kind) (e : MapEntry) (addr : Nat) : Decoded Nat :=
  if addr % 10 > e.nbase - 1 then .fail .incorrectAddressFormat
  else if addr < e.min.toNat ∨ addr > e.max.toNat then .fail .addressOutOfRange
  else .ok (linearise k (addr - e.min.toNat))

/-- Step 5: device address, first and last byte (40_address_decoder R116 to R118); the byte count follows. -/
def span (k : Kind) (e : MapEntry) (lin len : Nat) : Resolved :=
  match kindClass k with
  | .bit =>
    let last := (lin + len - 1) / 8
    ⟨lin, e.base.toNat + lin / 8, lin / 8, last, last - lin / 8 + 1⟩
  | .w16 =>
    let last := lin + 2 * len - 1
    ⟨lin, e.base.toNat + 2 * lin, lin, last, last - lin + 1⟩
  | .w32 =>
    let last := lin + 4 * len - 1
    ⟨lin, e.base.toNat + 4 * lin, lin, last, last - lin + 1⟩

/-- Step 6 and the alignment check of WRITE_BITS (40_address_decoder R119, R127). -/
def checkSpan (op : Op) (r : Resolved) : Decoded Resolved :=
  if r.bc > maxBytes then .fail .tooManyBytes
  else if op = .writeBits ∧ r.lin % 8 ≠ 0 then .fail .addressMisaligned
  else .ok r

/-- `resolve(op, kind, addr, len)` (40_address_decoder R125). -/
def resolve (m : RegMap) (op : Op) (k : Kind) (addr len : Nat) : Decoded Resolved :=
  if len = 0 then .refuse .zeroLength
  else if !admits op k then .fail .incorrectDataType
  else
    match linearOf k (mapEntry m k) addr with
    | .ok lin => checkSpan op (span k (mapEntry m k) lin len)
    | .fail r => .fail r
    | .refuse r => .refuse r

/-- `resolve_force(kind, addr)` (40_address_decoder R120, R126). -/
def resolveForce (m : RegMap) (k : Kind) (addr : Nat) : Decoded ResolvedBit :=
  if kindClass k ≠ .bit then .fail .incorrectDataType
  else
    match linearOf k (mapEntry m k) addr with
    | .ok lin => .ok ⟨lin, (mapEntry m k).fbase.toNat + lin⟩
    | .fail r => .fail r
    | .refuse r => .refuse r

/-! ### The two outside spaces a request can name -/

/-- The two device address spaces (20_memory R58, R59). -/
inductive DeviceSpace where
  | byte | forcedBit
deriving DecidableEq, Repr

/-- Which space an operation reaches (20_memory R60). -/
def opSpace (op : Op) : DeviceSpace := if isForce op then .forcedBit else .byte

/-- The device bytes a request of device address `d` and byte count `n` names (20_memory R58). -/
def namedBytes (d n : Nat) : List Nat := (List.range n).map (d + ·)

end Sys2Proof.Machine
end

