-- ==== Sys2Proof/Machine/Codec.lean ====
section
/-! DEFINITION. The ASCII-hex codec and the checksum calculator (41_frame_codec R140 to R155), and the control bytes
of the wire (30_encoding R86). Combinational: no state. -/

namespace Sys2Proof.Machine

/-- Control and command bytes (30_encoding R86, R87). -/
def stx : Byte := 0x02
/-- End of text (30_encoding R86). -/
def etx : Byte := 0x03
/-- Positive acknowledgement (30_encoding R86). -/
def ackByte : Byte := 0x06
/-- Negative acknowledgement (30_encoding R86). -/
def nakByte : Byte := 0x15
/-- The command byte `'0'` of every read (30_encoding R87). -/
def readByte : Byte := 0x30
/-- The command byte `'1'` of every write (30_encoding R87). -/
def writeByte : Byte := 0x31
/-- The command byte of a force that sets the bit (30_encoding R87). -/
def forceSetByte : Byte := 0x37
/-- The command byte of a force that clears the bit (30_encoding R87). -/
def forceClearByte : Byte := 0x38

/-- `lo8(w)` (00_scope R11). -/
def lo8 (w : Word) : Byte := w.extractLsb' 0 8

/-- `hi8(w)` (00_scope R11). -/
def hi8 (w : Word) : Byte := w.extractLsb' 8 8

/-! ### Encoding -/

/-- `hexchar(v)` (41_frame_codec R140). The codes but `'0'` and `'1'` are PRESUMED, from general knowledge (log 13). -/
def hexchar (v : BitVec 4) : Byte :=
  if v.toNat ≤ 9 then BitVec.ofNat 8 (0x30 + v.toNat) else BitVec.ofNat 8 (0x41 + (v.toNat - 10))

/-- `hex2(b)`, the high nibble first (41_frame_codec R141). -/
def hex2 (b : Byte) : List Byte := [hexchar (b.extractLsb' 4 4), hexchar (b.extractLsb' 0 4)]

/-- `hexs(s)` (41_frame_codec R142). -/
def hexs (s : List Byte) : List Byte := s.flatMap hex2

/-- `hex4(d)` (41_frame_codec R143). -/
def hex4 (d : Word) : List Byte :=
  [hexchar (d.extractLsb' 12 4), hexchar (d.extractLsb' 8 4), hexchar (d.extractLsb' 4 4), hexchar (d.extractLsb' 0 4)]

/-- `hex4_force(d)`: with `c = hex4(d)`, the characters `c[2], c[3], c[0], c[1]` (41_frame_codec R144). -/
def hex4Force (d : Word) : List Byte := (hex4 d).drop 2 ++ (hex4 d).take 2

/-! ### Decoding -/

/-- `unhexchar(c)`; `none` is `BAD` (41_frame_codec R145). `lower` is `HEX_ACCEPT_LOWER`. -/
def unhexchar (lower : Bool) (c : Byte) : Option (BitVec 4) :=
  if 0x30 ≤ c.toNat ∧ c.toNat ≤ 0x39 then some (BitVec.ofNat 4 (c.toNat - 0x30))
  else if 0x41 ≤ c.toNat ∧ c.toNat ≤ 0x46 then some (BitVec.ofNat 4 (c.toNat - 0x37))
  else if lower = true ∧ 0x61 ≤ c.toNat ∧ c.toNat ≤ 0x66 then some (BitVec.ofNat 4 (c.toNat - 0x57))
  else none

/-- `unhex2(c1, c2)`, `c1` the high nibble (41_frame_codec R146). -/
def unhex2 (lower : Bool) (c1 c2 : Byte) : Option Byte :=
  match unhexchar lower c1, unhexchar lower c2 with
  | some h, some l => some (BitVec.ofNat 8 (16 * h.toNat + l.toNat))
  | _, _ => none

/-- `unhexs(t)` for a sequence of even length: all the bytes, or none at all (41_frame_codec R147). R147 gives no value
for an odd length, and the validator calls it with none; that an odd length is `BAD` too is the model's choice (DESIGN
CHOICE, log 27). -/
def unhexs (lower : Bool) : List Byte → Option (List Byte)
  | [] => some []
  | [_] => none
  | c1 :: c2 :: t =>
    match unhex2 lower c1 c2, unhexs lower t with
    | some b, some s => some (b :: s)
    | _, _ => none

/-- The uppercase form of a hex letter; every other byte stays (41_frame_codec R148). -/
def upperHex (c : Byte) : Byte := if 0x61 ≤ c.toNat ∧ c.toNat ≤ 0x66 then c - 0x20 else c

/-! ### Checksum -/

/-- `sum8(s)`: the sum of the bytes mod 256 (41_frame_codec R150). -/
def sum8 : List Byte → Byte
  | [] => 0
  | b :: s => b + sum8 s

/-- `mkframe(body)`, the body running from the command byte to the ETX (42_transactions R172, 41_frame_codec R151). -/
def mkframe (body : List Byte) : List Byte := [stx] ++ body ++ hex2 (sum8 body)

/-- The span `r[1..N−3]` the inbound checksum sums, `N` the length of `r` (41_frame_codec R152). -/
def checkedSpan (r : List Byte) : List Byte := (r.drop 1).take (r.length - 3)

/-- The received checksum field `r[N−2], r[N−1]` (41_frame_codec R152). -/
def checksumField (r : List Byte) : List Byte := r.drop (r.length - 2)

/-- The data characters `r[1..N−4]` (42_transactions R175). -/
def dataChars (r : List Byte) : List Byte := (r.drop 1).take (r.length - 4)

/-- `cs_match(r, N)`: characters are compared, both or either (41_frame_codec R153). R152 and R153 define it for `N ≥
4` only; for `N` of 2 or 3 the last two characters are compared with those of an empty span's sum, and for `N` below 2
the answer is false (DESIGN CHOICE, log 27). -/
def csMatch (m : ChecksumMatch) (r : List Byte) : Bool :=
  match checksumField r, hex2 (sum8 (checkedSpan r)) with
  | [f1, f2], [e1, e2] =>
    match m with
    | .both => f1 == e1 && f2 == e2
    | .either => f1 == e1 || f2 == e2
  | _, _ => false

/-- The marker check: `r[0] = STX` and `r[N−3] = ETX` (42_transactions R175). For `N` below 3, which the spec does not
speak of, `N − 3` is 0 (DESIGN CHOICE, log 27). -/
def markersOk (r : List Byte) : Bool := r[0]? == some stx && r[r.length - 3]? == some etx

/-- The checks of a read response `r` of length at least 4 (a shorter one: log 27), in their order: checksum, markers,
hex (42_transactions R175): the payload bytes, or the kind of the failure. -/
def checkResponse (c : Cfg) (r : List Byte) : Except ResKind (List Byte) :=
  if !csMatch c.checksumMatch r then .error .checksumMismatch
  else if c.checkMarkers && !markersOk r then .error .malformedResponse
  else
    match unhexs c.hexAcceptLower (dataChars r) with
    | none => .error .malformedResponse
    | some p => .ok p

end Sys2Proof.Machine
end

