-- ==== Sys2Proof/Machine/Payload.lean ====
section
/-! DEFINITION. The payload codec (43_payload_codec R220 to R227): bits and 16-bit words. The data port's lanes are
read here too (30_encoding R84, log 8). -/

namespace Sys2Proof.Machine

/-- `MASK[k] = 1 << k` (43_payload_codec R220). -/
def bitMask (k : Nat) : Byte := BitVec.ofNat 8 (1 <<< k)

/-- `bitof(b, n) = (b >> n) & 1` (43_payload_codec R221). -/
def bitof (b : Byte) (n : Nat) : Bool := (b >>> n) &&& 1 != 0

/-- `n` consecutive bits of the payload, from bit `at` on; `none` when a byte is missing (43_payload_codec R222;
log 27). -/
def unpackFrom (p : List Byte) : Nat → Nat → Option (List Bool)
  | _, 0 => some []
  | start, n + 1 =>
    match p[start / 8]?, unpackFrom p (start + 1) n with
    | some b, some bs => some (bitof b (start % 8) :: bs)
    | _, _ => none

/-- READ_BITS output: `len` bits from the requested start, or from bit 0 of the first byte (43_payload_codec R222). -/
def unpackBits (o : BitsOrigin) (lin len : Nat) (p : List Byte) : Option (List Bool) :=
  match o with
  | .requested => unpackFrom p (lin % 8) len
  | .byteBoundary => unpackFrom p 0 len

/-- Byte `k` of a packed bit array: the sum of the masks of its bits that are 1; a bit past the array's end adds
nothing (43_payload_codec R223). -/
def packByte (d : List Bool) (k : Nat) : Byte :=
  ((List.range 8).map (fun b => if d[8 * k + b]? = some true then bitMask b else 0)).foldr (· + ·) 0

/-- `pack_bits(D, len)`, `len` the length of `D` (43_payload_codec R223). -/
def packBits (d : List Bool) : List Byte := (List.range ((d.length + 7) / 8)).map (packByte d)

/-- `word16(lo, hi) = lo + 256 × hi` (43_payload_codec R224). -/
def word16 (lo hi : Byte) : Word := BitVec.ofNat 16 (lo.toNat + 256 * hi.toNat)

/-- `words_to_bytes(W, len)`, the low byte of each word first (43_payload_codec R225). -/
def wordsToBytes (w : List Word) : List Byte := w.flatMap (fun x => [lo8 x, hi8 x])

/-- The first `n` words of a payload; `none` when a byte is missing (43_payload_codec R226, R227; log 27). -/
def bytesToWords : Nat → List Byte → Option (List Word)
  | 0, _ => some []
  | n + 1, lo :: hi :: p =>
    match bytesToWords n p with
    | some ws => some (word16 lo hi :: ws)
    | none => none
  | _ + 1, _ => none

/-- The bits `D[0..len−1]` on the data port, bounded at its 512 lanes (10_state R24; log 8). -/
def portBits (data : DataPort) (len : Nat) : List Bool :=
  (List.range (min len maxDataBits)).map (fun j => data.getLsbD j)

/-- The words `W[0..len−1]` on the data port, bounded at its 32 words (10_state R24; log 8). -/
def portWords (data : DataPort) (len : Nat) : List Word :=
  (List.range (min len maxDataWords)).map (fun i => data.extractLsb' (16 * i) 16)

end Sys2Proof.Machine
end

