-- ==== Sys2Proof/Machine/Ops.lean ====
section
/-! DEFINITION. The named operations every command shares: the ports, reset, the entry into a failure and the return
from it, and the steps accept, build, transmit, await, validate and deliver (42_transactions R170 to R177;
60_exceptions R258, R260; 70_reset_and_hazards R290). -/

namespace Sys2Proof.Machine

/-! ### The reset input (70_reset_and_hazards R290) -/

/-- Whether reset is asserted at this step (log 12). -/
def resetAsserted (s : State) : Bool := s.resets.headD false

/-- The state once this step has sampled the reset input: the schedule moves on by one (log 12). -/
def sampled (s : State) : State := { s with resets := s.resets.tail }

/-- Reset: every field of the block takes its value of 10_state R34 and `cfg` is kept; what stands at the ports is
outside the block and stays (log 12). -/
def resetBlock (s : State) : State :=
  { s with
    fsm := .idle, cmd := none, wdataBits := [], wdataWords := [], raAddr := none, raSpan := none
    tx := [], txLen := none, rx := [], rxExp := none, rxLen := none
    resKind := .inProgress, resValid := false, outBits := [], outWords := [] }

/-! ### Taking a failure and returning from it (60_exceptions R258, R260) -/

/-- The payload fields stop holding a value (10_state R29; log 4). -/
def dropPayload (s : State) : State := { s with outBits := [], outWords := [] }

/-- `fail(K)`: `res_kind <- K; res_valid <- 1; fsm <- FAILED` (60_exceptions R258), and the payload fields hold no
value after it (10_state R29, log 4). Nothing is saved. -/
def fail (k : ResKind) (s : State) : State :=
  { dropPayload s with resKind := k, resValid := true, fsm := .failed }

/-- The entry into `SUCCESS` (42_transactions R175, R176). -/
def succeed (s : State) : State := { s with resKind := .success, resValid := true, fsm := .success }

/-- Deliver (42_transactions R177; the return from a failure, 60_exceptions R260): enabled when a caller takes the
result; until then the block waits (log 5). `p` is the payload offered. -/
def deliver (p : Payload) (s : State) : Outcome :=
  match s.takes with
  | 0 => .next s
  | t + 1 =>
    .next { s with takes := t, delivered := s.delivered ++ [⟨s.resKind, p⟩], resValid := false, fsm := .idle }

/-! ### The command port (42_transactions R171, 60_exceptions R276) -/

/-- Which of the waiting commands is served next: a draw, any of them may be (60_exceptions R276; log 9). -/
def offerIndex (s : State) : Nat := s.turns.headD 0 % s.offers.length

/-- The command served next, if any waits. -/
def offered (s : State) : Option Offer := s.offers[offerIndex s]?

/-- The command served next leaves the port; the others go on waiting. -/
def takeOffer (s : State) : State :=
  { s with offers := s.offers.eraseIdx (offerIndex s), turns := s.turns.tail }

/-- Latch the bits of a WRITE_BITS (10_state R24), replacing the whole array (DESIGN CHOICE, log 25). -/
def latchBits (len : Word) (data : DataPort) (s : State) : State :=
  { s with wdataBits := portBits data len.toNat }

/-- Latch the words of a WRITE_W16 (10_state R24), replacing the whole array (DESIGN CHOICE, log 25). -/
def latchWords (len : Word) (data : DataPort) (s : State) : State :=
  { s with wdataWords := portWords data len.toNat }

/-- A command without a data operand latches no data (30_encoding R84). -/
def latchNoData (_ : DataPort) (s : State) : State := s

/-- Accept (42_transactions R171): latch the command and its data. With nothing offered the block waits (R189). -/
def accept (c : CmdLatch) (latchData : DataPort → State → State) (s : State) : Outcome :=
  match offered s with
  | none => .next s
  | some o =>
    .next { latchData o.data (takeOffer s) with
      cmd := some c, resKind := .inProgress, resValid := false, fsm := .building }

/-! ### Build (42_transactions R172) -/

/-- What the build half of a step answers: a refusal, a model fault, a failure before any I/O, or the state with the
resolved address, the request frame and the expected length written. -/
inductive Built where
  | refused (r : Refusal)
  | fault (f : Fault)
  | failed (k : ResKind)
  | ready (s : State)
deriving DecidableEq, Repr

/-- Write `ra_*` for a read or a write, each value checked to fit its field (00_scope R10; log 17). -/
def latchResolved (r : Resolved) (s : State) : Option State :=
  if r.dev < 2 ^ 16 ∧ r.bc < 2 ^ 7 then
    some { s with
      raAddr := some ⟨r.lin, BitVec.ofNat 16 r.dev⟩, raSpan := some ⟨r.first, r.last, BitVec.ofNat 7 r.bc⟩ }
  else none

/-- Write `ra_lin` and `ra_dev` for a force; the span fields keep what they hold (10_state R25; log 20). -/
def latchResolvedBit (r : ResolvedBit) (s : State) : Option State :=
  if r.dev < 2 ^ 16 then some { s with raAddr := some ⟨r.lin, BitVec.ofNat 16 r.dev⟩ } else none

/-- Write `tx`, `tx_len` and `rx_exp`, each checked to fit (42_transactions R172, 10_state R26, R27; log 17). -/
def loadFrame (body : List Byte) (responseLength : Nat) (s : State) : Option State :=
  if (mkframe body).length ≤ txSize ∧ responseLength ≤ rxSize then
    some { s with
      tx := mkframe body, txLen := some (BitVec.ofNat 8 (mkframe body).length)
      rxExp := some (BitVec.ofNat 8 responseLength) }
  else none

/-- The end of a build that the decoder passed. -/
def loadRequest (latched : Option State) (body : List Byte) (responseLength : Nat) : Built :=
  match latched.bind (loadFrame body responseLength) with
  | some s => .ready s
  | none => .fault .fieldOverflow

/-- The body of a read request (30_encoding R88). -/
def readBody (dev : Word) (bc : BitVec 7) : List Byte :=
  [readByte] ++ hex4 dev ++ hex2 (bc.setWidth 8) ++ [etx]

/-- The body of a write request with payload `p` (30_encoding R89). -/
def writeBody (dev : Word) (bc : BitVec 7) (p : List Byte) : List Byte :=
  [writeByte] ++ hex4 dev ++ hex2 (bc.setWidth 8) ++ hexs p ++ [etx]

/-- The body of a force request (30_encoding R90). -/
def forceBody (command : Byte) (dev : Word) : List Byte := [command] ++ hex4Force dev ++ [etx]

/-- The response length a read expects (30_encoding R94). -/
def readResponseLength (bc : Nat) : Nat := 4 + 2 * bc

/-- The response length a write or a force expects (30_encoding R94). -/
def ackLength : Nat := 1

/-- Build a read request (42_transactions R172, R178, R182, R183). -/
def buildRead (op : Op) (k : Kind) (addr len : Word) (s : State) : Built :=
  match resolve s.cfg.regmap op k addr.toNat len.toNat with
  | .refuse r => .refused r
  | .fail f => .failed f
  | .ok r =>
    loadRequest (latchResolved r s) (readBody (BitVec.ofNat 16 r.dev) (BitVec.ofNat 7 r.bc)) (readResponseLength r.bc)

/-- Build a write request from the latched data's payload, `none` when the latch holds no such data
(42_transactions R172, R179, R184). -/
def buildWrite (op : Op) (k : Kind) (addr len : Word) (payload : State → Option (List Byte)) (s : State) : Built :=
  match resolve s.cfg.regmap op k addr.toNat len.toNat with
  | .refuse r => .refused r
  | .fail f => .failed f
  | .ok r =>
    match payload s with
    | none => .fault .unwrittenRead
    | some p =>
      loadRequest (latchResolved r s) (writeBody (BitVec.ofNat 16 r.dev) (BitVec.ofNat 7 r.bc) p) ackLength

/-- Build a force request (42_transactions R172, R180, R181). -/
def buildForce (command : Byte) (k : Kind) (addr : Word) (s : State) : Built :=
  match resolveForce s.cfg.regmap k addr.toNat with
  | .refuse r => .refused r
  | .fail f => .failed f
  | .ok r => loadRequest (latchResolvedBit r s) (forceBody command (BitVec.ofNat 16 r.dev)) ackLength

/-- The payload of a WRITE_BITS, from `wdata_bits[0..cmd_len−1]` (43_payload_codec R223). -/
def bitsPayload (len : Word) (s : State) : Option (List Byte) :=
  if s.wdataBits.length = len.toNat then some (packBits s.wdataBits) else none

/-- The payload of a WRITE_W16, from `wdata_words[0..cmd_len−1]` (43_payload_codec R225). -/
def wordsPayload (len : Word) (s : State) : Option (List Byte) :=
  if s.wdataWords.length = len.toNat then some (wordsToBytes s.wdataWords) else none

/-! ### Transmit (42_transactions R173) -/

/-- `tx[0..tx_len−1]`, the bytes that hold a value (10_state R26, R35). -/
def requestFrame (s : State) : Option (List Byte) :=
  match s.txLen with
  | none => none
  | some n => if n.toNat ≤ s.tx.length then some (s.tx.take n.toNat) else none

/-- Flush, then write the whole frame (42_transactions R173). `s` is the state the build left, `before` the state
before the step: while the transport has not answered a call, no step happens (60_exceptions R277; log 5, log 6). -/
def transmit (before s : State) : Outcome :=
  match requestFrame s with
  | none => .fault .unwrittenRead
  | some frame =>
    match s.flushAnswers with
    | [] => .next before
    | false :: flushes => .next (fail .transmitFailure { s with flushAnswers := flushes, calls := s.calls ++ [.flushInput] })
    | true :: flushes =>
      match s.writeAnswers with
      | [] => .next before
      | w :: writes =>
        let sent := { s with
          flushAnswers := flushes, writeAnswers := writes, calls := s.calls ++ [.flushInput, .write frame] }
        if w = (frame.length : Int) then .next { sent with fsm := .awaiting } else .next (fail .transmitFailure sent)

/-- The step out of `BUILDING`: build, then transmit if the build did not fail (42_transactions R172, R173). -/
def buildAndTransmit (build : State → Built) (s : State) : Outcome :=
  match build s with
  | .refused r => .refused r
  | .fault f => .fault f
  | .failed k => .next (fail k s)
  | .ready built => transmit s built

/-! ### Await (42_transactions R174) -/

/-- Await: ask for exactly `rx_exp` bytes; a short answer or an error is a Timeout; what arrives beyond them is not
read (42_transactions R174, R187; log 7). -/
def await (s : State) : Outcome :=
  match s.rxExp with
  | none => .fault .unwrittenRead
  | some n =>
    match s.readAnswers with
    | [] => .next s
    | .error :: answers =>
      .next (fail .timeout { s with readAnswers := answers, calls := s.calls ++ [.read n.toNat] })
    | .bytes b :: answers =>
      let asked := { s with readAnswers := answers, calls := s.calls ++ [.read n.toNat] }
      if b.length < n.toNat then .next (fail .timeout asked)
      else .next { asked with rx := b.take n.toNat, rxLen := some n, fsm := .validating }

/-! ### Validate (42_transactions R175, R176) -/

/-- `rx[0..rx_len−1]`, the bytes that hold a value (10_state R27, R35). -/
def received (s : State) : Option (List Byte) :=
  match s.rxLen with
  | none => none
  | some n => if n.toNat ≤ s.rx.length then some (s.rx.take n.toNat) else none

/-- Validate a read response; `store` writes the output from the payload bytes (42_transactions R175). -/
def validateRead (store : List Byte → State → Option State) (s : State) : Outcome :=
  match received s with
  | none => .fault .unwrittenRead
  | some r =>
    if r.length < 4 then .fault .unwrittenRead
    else
      match checkResponse s.cfg r with
      | .error k => .next (fail k s)
      | .ok p =>
        match store p s with
        | none => .fault .unwrittenRead
        | some stored => .next (succeed stored)

/-- Validate an acknowledgement (42_transactions R176); after a write or a force that succeeds the payload fields
hold no value (10_state R29, log 4). -/
def validateAck (s : State) : Outcome :=
  match received s with
  | some (b :: _) => if b = ackByte then .next (succeed (dropPayload s)) else .next (fail .notAcknowledged s)
  | some [] => .fault .unwrittenRead
  | none => .fault .unwrittenRead

/-- Write `out_bits` (42_transactions R178, 43_payload_codec R222); `out_words` keeps what it holds (log 22). The whole
array is replaced: that bits past `len`, left by an earlier and longer read, stop holding a value is the model's choice,
the spec saying nothing of them (DESIGN CHOICE, log 25). -/
def storeBits (len : Word) (p : List Byte) (s : State) : Option State :=
  match s.raAddr with
  | none => none
  | some ra =>
    match unpackBits s.cfg.readBitsOrigin ra.lin len.toNat p with
    | none => none
    | some bs => some { s with outBits := bs }

/-- Write `count` words of `out_words` (42_transactions R182, R183; 43_payload_codec R226, R227); `out_bits` keeps what
it holds (log 22). The whole array is replaced: that words past `count`, left by an earlier and longer read, stop holding
a value is the model's choice, the spec saying nothing of them (DESIGN CHOICE, log 25). -/
def storeWords (count : Nat) (p : List Byte) (s : State) : Option State :=
  match bytesToWords count p with
  | none => none
  | some ws => some { s with outWords := ws }

/-! ### A command's step -/

/-- What a successful READ_BITS offers beside the result kind (42_transactions R177; log 19). -/
def offerBits (s : State) : Payload := .bits s.outBits

/-- What a successful word read offers beside the result kind (42_transactions R177; log 19). -/
def offerWords (s : State) : Payload := .words s.outWords

/-- What a successful write or force offers beside the result kind (42_transactions R177). -/
def offerNothing (_ : State) : Payload := .none

/-- The one step of a command's transaction that is enabled in a state (42_transactions R170), from the command's own
parts: the latch it fills, the data it takes, its build, its validation and the payload it offers. -/
def transact (c : CmdLatch) (latchData : DataPort → State → State) (build : State → Built)
    (validate : State → Outcome) (payload : State → Payload) (s : State) : Outcome :=
  match s.fsm with
  | .idle => accept c latchData s
  | .building => buildAndTransmit build s
  | .awaiting => await s
  | .validating => validate s
  | .success => deliver (payload s) s
  | .failed => deliver .none s

/-! ### Which command the next step is a step of (10_state R23) -/

/-- The command of a latch. -/
def latchedInstr (c : CmdLatch) : Instr := mkInstr c.op c.kind c.addr c.len

/-- What the next step finds: no command, a word that spells none, an unwritten latch, or a command. -/
inductive Fetched where
  | nothing
  | reserved
  | unwritten
  | command (i : Instr)
deriving DecidableEq, Repr

/-- The command the next step is a step of: in `IDLE` the one offered (42_transactions R171), else the one latched
(10_state R23). -/
def fetch (s : State) : Fetched :=
  if s.fsm = .idle then
    match offered s with
    | none => .nothing
    | some o =>
      match decode o.word with
      | .error _ => .reserved
      | .ok i => .command i
  else
    match s.cmd with
    | none => .unwritten
    | some c => .command (latchedInstr c)

/-- The state with the command word `w` alone at the command port of an idle block, its data port all zeros, and
reset not asserted (log 16). -/
def placeCommand (w : CmdWord) (s : State) : State :=
  { s with fsm := .idle, resValid := false, resets := [], offers := [⟨w, 0⟩], turns := [] }

end Sys2Proof.Machine
end

