-- ==== Sys2Proof/Machine/Bits.lean ====
section
/-! DEFINITION. The two bit commands that move whole bytes: READ_BITS and WRITE_BITS. -/

namespace Sys2Proof.Machine

/-- READ_BITS (42_transactions R178). -/
def execReadBits (k : Kind) (addr len : Word) (s : State) : Outcome :=
  transact ⟨.readBits, k, addr, len⟩ latchNoData (buildRead .readBits k addr len) (validateRead (storeBits len))
    offerBits s

/-- WRITE_BITS (42_transactions R179). -/
def execWriteBits (k : Kind) (addr len : Word) (s : State) : Outcome :=
  transact ⟨.writeBits, k, addr, len⟩ (latchBits len) (buildWrite .writeBits k addr len (bitsPayload len)) validateAck
    offerNothing s

end Sys2Proof.Machine
end

