-- ==== Sys2Proof/Machine/Force.lean ====
section
/-! DEFINITION. The two commands that force one bit: FORCE_SET and FORCE_CLEAR. Their length field is latched and read
by no rule (40_address_decoder R120). -/

namespace Sys2Proof.Machine

/-- FORCE_SET (42_transactions R180). -/
def execForceSet (k : Kind) (addr len : Word) (s : State) : Outcome :=
  transact ⟨.forceSet, k, addr, len⟩ latchNoData (buildForce forceSetByte k addr) validateAck offerNothing s

/-- FORCE_CLEAR (42_transactions R181). -/
def execForceClear (k : Kind) (addr len : Word) (s : State) : Outcome :=
  transact ⟨.forceClear, k, addr, len⟩ latchNoData (buildForce forceClearByte k addr) validateAck offerNothing s

end Sys2Proof.Machine
end

