-- ==== Sys2Proof/Machine/Words.lean ====
section
/-! DEFINITION. The register commands: READ_W16, READ_W32 and WRITE_W16. -/

namespace Sys2Proof.Machine

/-- READ_W16 (42_transactions R182): one output word a register. -/
def execReadW16 (k : Kind) (addr len : Word) (s : State) : Outcome :=
  transact ⟨.readW16, k, addr, len⟩ latchNoData (buildRead .readW16 k addr len)
    (validateRead (storeWords len.toNat)) offerWords s

/-- READ_W32 (42_transactions R183): two output words a register, the low one first. -/
def execReadW32 (k : Kind) (addr len : Word) (s : State) : Outcome :=
  transact ⟨.readW32, k, addr, len⟩ latchNoData (buildRead .readW32 k addr len)
    (validateRead (storeWords (2 * len.toNat))) offerWords s

/-- WRITE_W16 (42_transactions R184). -/
def execWriteW16 (k : Kind) (addr len : Word) (s : State) : Outcome :=
  transact ⟨.writeW16, k, addr, len⟩ (latchWords len) (buildWrite .writeW16 k addr len (wordsPayload len)) validateAck
    offerNothing s

end Sys2Proof.Machine
end

