-- ==== Sys2Proof/Machine/Dispatch.lean ====
section
/-! DEFINITION. The dispatch: one arm per command, one direct call of its meaning. -/

namespace Sys2Proof.Machine

/-- The step that command `i` takes in state `s` (42_transactions R170; log 23). -/
def exec (i : Instr) (s : State) : Host.Outcome State Fault Refusal :=
  match i with
  | .readBits kind addr len => Sys2Proof.Machine.execReadBits kind addr len s
  | .writeBits kind addr len => Sys2Proof.Machine.execWriteBits kind addr len s
  | .forceSet kind addr len => Sys2Proof.Machine.execForceSet kind addr len s
  | .forceClear kind addr len => Sys2Proof.Machine.execForceClear kind addr len s
  | .readW16 kind addr len => Sys2Proof.Machine.execReadW16 kind addr len s
  | .readW32 kind addr len => Sys2Proof.Machine.execReadW32 kind addr len s
  | .writeW16 kind addr len => Sys2Proof.Machine.execWriteW16 kind addr len s

end Sys2Proof.Machine
end

