-- ==== Sys2Proof/Machine/Step.lean ====
section
/-! DEFINITION. One step of the machine: reset first, then the check of the configuration, then the step of the
command offered or latched. -/

namespace Sys2Proof.Machine

/-- One step (00_scope R7, 42_transactions R170). -/
def step (s : State) : Host.Outcome State Fault Refusal :=
  if resetAsserted s then .next (resetBlock (sampled s))
  else if !cfgWf s.cfg then .refused .illFormedConfig
  else
    match fetch s with
    | .nothing => .next (sampled s)
    | .reserved => .refused .reservedEncoding
    | .unwritten => .fault .unwrittenRead
    | .command i => exec i (sampled s)

/-- The state in which the next step fetches the command whose word is `w`, of `nbits` bits (log 16). -/
def State.withFetchWord (s : State) (nbits w : Nat) : State := placeCommand (BitVec.ofNat 40 (w % 2 ^ nbits)) s

end Sys2Proof.Machine
end

