-- ==== Sys2Proof/Machine/Assembler.lean ====
section
/-! DEFINITION. The spec's own syntax for a command (30_encoding R96, R97): the lines as terms, the offer a line stands
for, and the reading of a line's text. The block never sees any of this; callers write it (log 15). -/

namespace Sys2Proof.Machine

/-- A line of the syntax (30_encoding R96), with the pseudo-command FORCE (R97). -/
inductive AsmLine where
  | readBits   (k : Kind) (addr len : Nat)
  | writeBits  (k : Kind) (addr : Nat) (bits : List Bool)
  | forceSet   (k : Kind) (addr : Nat)
  | forceClear (k : Kind) (addr : Nat)
  | readW16    (k : Kind) (addr len : Nat)
  | readW32    (k : Kind) (addr len : Nat)
  | writeW16   (k : Kind) (addr : Nat) (words : List Nat)
  | force      (k : Kind) (addr : Nat) (v : Bool)
deriving DecidableEq, Repr

/-- The data port that carries a bit array, bit 0 in lane 0 (log 8). -/
def portOfBits (bits : List Bool) : DataPort := BitVec.ofNat 512 (bits.foldr (fun b n => b.toNat + 2 * n) 0)

/-- The data port that carries an array of words, word 0 in the lowest lanes (log 8). -/
def portOfWords (words : List Nat) : DataPort := BitVec.ofNat 512 (words.foldr (fun w n => w % 65536 + 65536 * n) 0)

/-- A value that goes into a 16-bit field is first checked to fit (00_scope R10). -/
def fits16 (n : Nat) : Bool := decide (n < 2 ^ 16)

/-- The offer of a command with its fields checked to fit. -/
def offerOf (op : Op) (k : Kind) (addr len : Nat) (data : DataPort) : Option Offer :=
  if fits16 addr && fits16 len then
    some ⟨encode (mkInstr op k (BitVec.ofNat 16 addr) (BitVec.ofNat 16 len)), data⟩
  else none

/-- The offer a line stands for: the length of a write is the number of its data, a force's is 0
(30_encoding R96, R97); `none` when a number does not fit its field. -/
def assemble : AsmLine → Option Offer
  | .readBits k a n => offerOf .readBits k a n 0
  | .writeBits k a bits => offerOf .writeBits k a bits.length (portOfBits bits)
  | .forceSet k a => offerOf .forceSet k a 0 0
  | .forceClear k a => offerOf .forceClear k a 0 0
  | .readW16 k a n => offerOf .readW16 k a n 0
  | .readW32 k a n => offerOf .readW32 k a n 0
  | .writeW16 k a words =>
    if words.all fits16 then offerOf .writeW16 k a words.length (portOfWords words) else none
  | .force k a v => if v then offerOf .forceSet k a 0 0 else offerOf .forceClear k a 0 0

/-! ### Reading a line -/

/-- The pieces of a line. -/
inductive Token where
  | name (cs : List Char)
  | comma
  | openBrace
  | closeBrace
deriving DecidableEq, Repr

/-- The name read so far, if any, before the tokens that follow it. -/
def endName (acc : List Char) (rest : List Token) : List Token :=
  if acc.isEmpty then rest else .name acc.reverse :: rest

/-- Cut a line into tokens; what follows a semicolon is a comment. The braces are given by their codes. -/
def tokens (acc : List Char) : List Char → List Token
  | [] => endName acc []
  | c :: cs =>
    if c = ';' then endName acc []
    else if c = ' ' then endName acc (tokens [] cs)
    else if c = ',' then endName acc (.comma :: tokens [] cs)
    else if c.toNat = 123 then endName acc (.openBrace :: tokens [] cs)
    else if c.toNat = 125 then endName acc (.closeBrace :: tokens [] cs)
    else tokens (c :: acc) cs

/-- The digits of a number in base `b`, the most significant first. -/
def digits (b acc : Nat) : List Char → Option Nat
  | [] => some acc
  | c :: cs =>
    let v := c.toNat
    let d := if 48 ≤ v ∧ v ≤ 57 then v - 48
      else if 65 ≤ v ∧ v ≤ 70 then v - 55
      else if 97 ≤ v ∧ v ≤ 102 then v - 87
      else 16
    if d < b then digits b (acc * b + d) cs else none

/-- A number in decimal or with `0x` (30_encoding R96). -/
def number : List Char → Option Nat
  | [] => none
  | '0' :: 'x' :: d :: ds => digits 16 0 (d :: ds)
  | d :: ds => digits 10 0 (d :: ds)

/-- A register kind's name (20_memory R50). -/
def kindName : Kind → List Char
  | .state => "State".toList
  | .inputContact => "InputContact".toList
  | .outputContact => "OutputContact".toList
  | .timerContact => "TimerContact".toList
  | .contact => "Contact".toList
  | .memoryContact => "MemoryContact".toList
  | .memorySpecial => "MemorySpecial".toList
  | .counter32 => "Counter32".toList
  | .timerCounter16 => "TimerCounter16".toList
  | .data => "Data".toList
  | .dataSpecial => "DataSpecial".toList
  | .counter16 => "Counter16".toList

/-- The kind of a name. -/
def kindOfName (cs : List Char) : Option Kind := Kind.all.find? (fun k => kindName k = cs)

/-- The numbers of a data list that is not empty, up to its closing brace, which ends the line. After a comma another
number must follow, so a trailing comma makes the line stand for no command: 30_encoding R96 gives the form
`<bit>, <bit>, ...` in braces and says nothing of it (DESIGN CHOICE, log 15). -/
def dataItems : List Token → Option (List Nat)
  | [.name a, .closeBrace] => (number a).map (fun n => [n])
  | .name a :: .comma :: rest =>
    match number a, dataItems rest with
    | some n, some ns => some (n :: ns)
    | _, _ => none
  | _ => none

/-- The numbers of a data list. That the list may be empty, a length of 0, is the model's choice: 30_encoding R96 does
not say (DESIGN CHOICE, log 15). -/
def dataList : List Token → Option (List Nat)
  | [.closeBrace] => some []
  | items => dataItems items

/-- A bit of a data list, 0 or 1. -/
def bitList : List Nat → Option (List Bool)
  | [] => some []
  | n :: ns =>
    match bitList ns with
    | some bs => if n = 0 then some (false :: bs) else if n = 1 then some (true :: bs) else none
    | none => none

/-- The value of a FORCE pseudo-command: 1 or `true`, 0 or `false` (30_encoding R97). That the 1 and the 0 are numbers
as R96 writes them, so that `0x1` and `0x0` stand for them too, is the model's choice: R97 does not say (DESIGN CHOICE,
log 15). -/
def forceValue (cs : List Char) : Option Bool :=
  if cs = "true".toList then some true
  else if cs = "false".toList then some false
  else
    match number cs with
    | some 1 => some true
    | some 0 => some false
    | _ => none

/-- A line with a command name, a kind, an address and what stands after the address. -/
def lineOf (m : List Char) (k : Kind) (addr : Nat) (rest : List Token) : Option AsmLine :=
  match rest with
  | [] =>
    if m = "FORCE_SET".toList then some (.forceSet k addr)
    else if m = "FORCE_CLEAR".toList then some (.forceClear k addr)
    else none
  | [.comma, .name n] =>
    if m = "FORCE".toList then (forceValue n).map (.force k addr)
    else if m = "READ_BITS".toList then (number n).map (.readBits k addr)
    else if m = "READ_W16".toList then (number n).map (.readW16 k addr)
    else if m = "READ_W32".toList then (number n).map (.readW32 k addr)
    else none
  | .comma :: .openBrace :: data =>
    if m = "WRITE_BITS".toList then ((dataList data).bind bitList).map (.writeBits k addr)
    else if m = "WRITE_W16".toList then (dataList data).map (.writeW16 k addr)
    else none
  | _ => none

/-- Read a line's text (30_encoding R96). -/
def readLine (text : List Char) : Option AsmLine :=
  match tokens [] text with
  | .name m :: .name k :: .comma :: .name a :: rest =>
    match kindOfName k, number a with
    | some kind, some addr => lineOf m kind addr rest
    | _, _ => none
  | _ => none

end Sys2Proof.Machine
end

