-- ==== Sys2Proof/Machine/Numeric.lean ====
section
/-! DEFINITION. The Numeric Codec beside the block (43_payload_codec R228 to R233): how two 16-bit registers of the
result port make one 32-bit value. The block never computes these. -/

namespace Sys2Proof.Machine

/-- `pair32(wlo, whi) = wlo + 65536 × whi` (43_payload_codec R228). -/
def pair32 (wlo whi : Word) : DWord := BitVec.ofNat 32 (wlo.toNat + 65536 * whi.toNat)

/-- `split32(v) = (v[15:0], v[31:16])` (43_payload_codec R228). -/
def split32 (v : DWord) : Word × Word := (v.extractLsb' 0 16, v.extractLsb' 16 16)

/-- `u32(wlo, whi)` (43_payload_codec R229). -/
def u32 (wlo whi : Word) : Nat := (pair32 wlo whi).toNat

/-- The encoding of an unsigned number below 2^32 (43_payload_codec R229); a larger one does not fit (00_scope R10). -/
def encodeU32 (u : Nat) : Option (Word × Word) := if u < 2 ^ 32 then some (split32 (BitVec.ofNat 32 u)) else none

/-- `i32(wlo, whi)`: two's complement, PRESUMED from general knowledge (43_payload_codec R230; log 14). -/
def i32 (wlo whi : Word) : Int :=
  if (pair32 wlo whi).toNat < 2 ^ 31 then ((pair32 wlo whi).toNat : Int) else ((pair32 wlo whi).toNat : Int) - 2 ^ 32

/-- The encoding of a signed number from −2^31 to 2^31 − 1 (43_payload_codec R230). -/
def encodeI32 (x : Int) : Option (Word × Word) :=
  if -(2 ^ 31) ≤ x ∧ x ≤ 2 ^ 31 - 1 then some (split32 (BitVec.ofInt 32 x)) else none

/-- A binary32 value by its fields: sign bit 31, exponent bits 30 to 23, fraction bits 22 to 0 (43_payload_codec
R231; the layout is PRESUMED from general knowledge, log 14). Every pattern is one value, NaN payloads included. -/
structure F32 where
  sign     : BitVec 1
  exponent : BitVec 8
  fraction : BitVec 23
deriving DecidableEq, Repr

/-- `f32(wlo, whi)`: a reinterpretation of the 32 bits, none of them changed (43_payload_codec R231). -/
def f32 (wlo whi : Word) : F32 :=
  ⟨(pair32 wlo whi).extractLsb' 31 1, (pair32 wlo whi).extractLsb' 23 8, (pair32 wlo whi).extractLsb' 0 23⟩

/-- The 32-bit pattern of a binary32 value (43_payload_codec R231). -/
def f32Pattern (f : F32) : DWord := ((f.sign ++ f.exponent : BitVec 9) ++ f.fraction : BitVec 32)

/-- The encoding of a float: `split32` of its bit pattern (43_payload_codec R231). -/
def encodeF32 (f : F32) : Word × Word := split32 (f32Pattern f)

/-- What a binary32 value stands for (IEEE-754 binary32, PRESUMED, log 14): a finite number is
`(-1)^sign × significand × 2^exponent`. -/
inductive F32Number where
  | nan (sign : Bool) (payload : BitVec 23)
  | infinity (sign : Bool)
  | finite (sign : Bool) (significand : Nat) (exponent : Int)
deriving DecidableEq, Repr

/-- The number of a binary32 value, by exponent bias 127 (93_implementation_defined G3; log 14). -/
def f32Number (f : F32) : F32Number :=
  let s := f.sign == 1
  if f.exponent.toNat = 255 then
    if f.fraction = 0 then .infinity s else .nan s f.fraction
  else if f.exponent.toNat = 0 then .finite s f.fraction.toNat (-149)
  else .finite s (2 ^ 23 + f.fraction.toNat) ((f.exponent.toNat : Int) - 150)

/-- Put a pair at offset `k` of a register buffer: registers `k` (low) and `k + 1` (high) (43_payload_codec R233);
`none` when the buffer has no such registers (DESIGN CHOICE, log 27). -/
def putPair (buf : List Word) (k : Nat) (p : Word × Word) : Option (List Word) :=
  if k + 1 < buf.length then some ((buf.set k p.1).set (k + 1) p.2) else none

/-- The pair at offset `k` of a register buffer (43_payload_codec R233); `none` when the buffer has no such registers
(DESIGN CHOICE, log 27). -/
def getPair (buf : List Word) (k : Nat) : Option (Word × Word) :=
  match buf[k]?, buf[k + 1]? with
  | some lo, some hi => some (lo, hi)
  | _, _ => none

end Sys2Proof.Machine
end

