-- ==== Sys2Proof/Safety.lean ====
section
/-! DEFINITION. What claims are stated in: the invariant of the block's state, the sequencer's transition table, which
command can end with which kind, the end of a run, and the transport calls a step adds. -/

namespace Sys2Proof.Machine

/-- The transition table of the sequencer without reset (42_transactions R189), waits included. -/
def edge : Fsm → Fsm → Bool
  | .idle, .idle | .idle, .building => true
  | .building, .building | .building, .awaiting | .building, .failed => true
  | .awaiting, .awaiting | .awaiting, .validating | .awaiting, .failed => true
  | .validating, .success | .validating, .failed => true
  | .success, .success | .success, .idle => true
  | .failed, .failed | .failed, .idle => true
  | .idle, .awaiting | .idle, .validating | .idle, .success | .idle, .failed => false
  | .building, .idle | .building, .validating | .building, .success => false
  | .awaiting, .idle | .awaiting, .building | .awaiting, .success => false
  | .validating, .idle | .validating, .building | .validating, .awaiting | .validating, .validating => false
  | .success, .building | .success, .awaiting | .success, .validating | .success, .failed => false
  | .failed, .building | .failed, .awaiting | .failed, .validating | .failed, .success => false

/-- Which operation can end with which kind (60_exceptions R257). -/
def canEndWith (op : Op) : ResKind → Bool
  | .success | .addressOutOfRange | .incorrectDataType | .transmitFailure | .timeout => true
  | .incorrectAddressFormat => opClass op == .bit
  | .tooManyBytes => !isForce op
  | .addressMisaligned => op == .writeBits
  | .checksumMismatch | .malformedResponse => isRead op
  | .notAcknowledged => !isRead op
  | .inProgress => false

/-- The kinds a build can fail with, before any I/O (60_exceptions R254). -/
def preIo : ResKind → Bool
  | .incorrectDataType | .incorrectAddressFormat | .addressOutOfRange | .tooManyBytes | .addressMisaligned => true
  | .success | .transmitFailure | .timeout | .checksumMismatch | .notAcknowledged | .inProgress
  | .malformedResponse => false

/-- The request length of an operation (30_encoding R94). -/
def requestLength (op : Op) (bc : Nat) : Nat :=
  match op with
  | .readBits | .readW16 | .readW32 => 11
  | .writeBits | .writeW16 => 11 + 2 * bc
  | .forceSet | .forceClear => 9

/-- The response length of an operation (30_encoding R94). -/
def responseLength (op : Op) (bc : Nat) : Nat := if isRead op then readResponseLength bc else ackLength

/-- The response a PLC that holds the bytes `p` gives to a read: STX, data, ETX, checksum (30_encoding R91, R93). -/
def readResponse (p : List Byte) : List Byte :=
  [stx] ++ hexs p ++ [etx] ++ hex2 (sum8 (hexs p ++ [etx]))

/-- The end of a run (70_reset_and_hazards R301): idle, no command offered and no refusal recorded. Of the refusals,
reservedEncoding needs a command offered and zeroLength a block in `BUILDING`, so the one left to exclude is that of an
ill-formed configuration (R293). -/
def runEnded (s : State) : Bool := s.fsm == .idle && (offered s).isNone && cfgWf s.cfg

/-- `res_valid` and `res_kind` follow the sequencer (10_state R28, R29; 60_exceptions R253). -/
def resultShape (s : State) : Prop :=
  s.resValid = resultOffered s.fsm ∧
  match s.fsm with
  | .idle => True
  | .building | .awaiting | .validating => s.resKind = .inProgress
  | .success => s.resKind = .success
  | .failed => isFailure s.resKind = true

/-- While the block is busy the command latch is written, and a write's data with it (10_state R24). -/
def latchShape (s : State) : Prop :=
  s.fsm ≠ .idle →
    ∃ c, s.cmd = some c ∧
      (c.op = .writeBits → s.wdataBits.length = min c.len.toNat maxDataBits) ∧
      (c.op = .writeW16 → s.wdataWords.length = min c.len.toNat maxDataWords)

/-- Every array stays within its size, and the two length fields count their buffers (10_state R20, R26, R27). -/
def bufferShape (s : State) : Prop :=
  s.tx.length ≤ txSize ∧ s.rx.length ≤ rxSize ∧
  s.txLen = (if s.tx = [] then none else some (BitVec.ofNat 8 s.tx.length)) ∧
  s.rxLen = (if s.rx = [] then none else some (BitVec.ofNat 8 s.rx.length)) ∧
  s.wdataBits.length ≤ maxDataBits ∧ s.wdataWords.length ≤ maxDataWords ∧
  s.outBits.length ≤ maxDataBits ∧ s.outWords.length ≤ maxDataWords

/-- The resolved-address latch holds what the decoder gives for the latched command, and `rx_exp` the response length
that follows from it (10_state R25, R27). -/
def resolvedShape (m : RegMap) (c : CmdLatch) (s : State) : Prop :=
  if isForce c.op then
    (∃ r, resolveForce m c.kind c.addr.toNat = .ok r ∧ s.raAddr = some ⟨r.lin, BitVec.ofNat 16 r.dev⟩ ∧
      r.dev < 2 ^ 16) ∧ s.rxExp = some 1
  else
    ∃ r, resolve m c.op c.kind c.addr.toNat c.len.toNat = .ok r ∧
      s.raAddr = some ⟨r.lin, BitVec.ofNat 16 r.dev⟩ ∧
      s.raSpan = some ⟨r.first, r.last, BitVec.ofNat 7 r.bc⟩ ∧ r.dev < 2 ^ 16 ∧
      s.rxExp = some (BitVec.ofNat 8 (responseLength c.op r.bc))

/-- Once the request is sent, the resolved address is that of the latched command; once the response is in, it has the
expected length (42_transactions R172 to R174). -/
def sentShape (s : State) : Prop :=
  (s.fsm = .awaiting ∨ s.fsm = .validating → ∃ c, s.cmd = some c ∧ resolvedShape s.cfg.regmap c s) ∧
  (s.fsm = .validating → s.rxLen = s.rxExp)

/-- The invariant of the block: a well-formed configuration and the four shapes. -/
def BlockInv (s : State) : Prop :=
  cfgWf s.cfg = true ∧ resultShape s ∧ latchShape s ∧ bufferShape s ∧ sentShape s

/-- The calls a transaction's step may add to the transport's list, and how (60_exceptions R271): one step makes no
call, a flush alone, a flush and then a write of the whole frame, or a read. -/
def callsOfStep (s t : State) : Prop :=
  t.calls = s.calls ∨ t.calls = s.calls ++ [.flushInput] ∨
  (∃ f, t.calls = s.calls ++ [.flushInput, .write f]) ∨ ∃ n, t.calls = s.calls ++ [.read n]

/-- A state with other commands at the command port. -/
def withPort (offers : List Offer) (turns : List Nat) (s : State) : State := { s with offers := offers, turns := turns }

/-- An outcome with its next state changed by `f`. -/
def mapNext (f : State → State) : Outcome → Outcome
  | .next s => .next (f s)
  | .fault r => .fault r
  | .refused r => .refused r

/-- `k` steps. -/
def run (k : Nat) (s : State) : Outcome :=
  match k with
  | 0 => .next s
  | k + 1 =>
    match step s with
    | .next t => run k t
    | .fault r => .fault r
    | .refused r => .refused r

end Sys2Proof.Machine
end

