-- ==== Sys2Proof/Certificates/Slice0/Obligations.lean ====
section
/-! DEFINITION. The statements for the provers. Each docstring names the rules of spec/ a statement rests on, and the
log entry where a clause is the model's own choice. -/

open Sys2Proof Sys2Proof.Machine

/-! ### The command word -/

/-- 30_encoding R80 to R82: decoding and encoding agree, for every word, every command and every operand value: no bit
of a command is lost in its word, and a word that spells a command is that command's word. -/
def Obligations.DecodeAndEncodeAgree : Prop :=
  ∀ (w : CmdWord) (i : Instr), decode w = .ok i ↔ encode i = w

/-- 30_encoding R80: the value of a command word is `len·2^24 + addr·2^8 + kind·2^4 + op`, the two codes those of R81
and R82. -/
def Obligations.CommandWordIsTheSumOfItsFields : Prop :=
  ∀ i : Instr,
    (encode i).toNat =
      i.len.toNat * 2 ^ 24 + i.addr.toNat * 2 ^ 8 + (kindCode i.kind).toNat * 2 ^ 4 + (opCode i.op).toNat

/-- 30_encoding R85, first two sentences: a word spells no command exactly when `op` is in 0x7 to 0xF or `kind` in 0xC
to 0xF; the step refuses it in `IDLE`, whatever else the state holds. -/
def Obligations.ReservedWordsAreRefused : Prop :=
  (∀ w : CmdWord, (∃ e, decode w = .error e) ↔ 7 ≤ (w.toNat % 16) ∨ 12 ≤ (w.toNat / 16 % 16)) ∧
  ∀ (s : State) (o : Offer), s.fsm = .idle → resetAsserted s = false → cfgWf s.cfg = true → offered s = some o →
    (7 ≤ o.word.toNat % 16 ∨ 12 ≤ o.word.toNat / 16 % 16) → step s = .refused .reservedEncoding

/-- spec/opcode_table.json: two rows cover no common word, and a word that a row covers decodes to that row's
operation unless its kind code is no kind (30_encoding R81, R85). -/
def Obligations.OpcodeRowsDecodeToTheirOperations : Prop :=
  (∀ r₁ ∈ opcodeRows, ∀ r₂ ∈ opcodeRows, ∀ w : CmdWord, r₁.covers w = true → r₂.covers w = true → r₁ = r₂) ∧
  ∀ r ∈ opcodeRows, ∀ w : CmdWord, r.covers w = true → w.toNat / 16 % 16 < 12 → ∃ i, decode w = .ok i ∧ i.op = r.op

/-- Words written out from the encodings of 30_encoding R80 to R82 decode to the commands they stand for: at least one
of each operation code and of each of the twelve kind codes. -/
def Obligations.WrittenOutWordsDecode : Prop :=
  decode 0b0000000000000010000000000000101000100000#40 = .ok (.readBits .outputContact 10 2) ∧
  decode 0b0000000000000100000000000000101000100001#40 = .ok (.writeBits .outputContact 10 4) ∧
  decode 0b0000000000000000000000011111010001010010#40 = .ok (.forceSet .memoryContact 500 0) ∧
  decode 0b0000000000000010000000000001010010010100#40 = .ok (.readW16 .data 20 2) ∧
  decode 0b0000000000000001000000001100100001110101#40 = .ok (.readW32 .counter32 200 1) ∧
  decode 0b0000000000000000000000111110011100000011#40 = .ok (.forceClear .state 999 0) ∧
  decode 0b0000000000000001000000000001000100010000#40 = .ok (.readBits .inputContact 17 1) ∧
  decode 0b0000000000001000000000001111111100110000#40 = .ok (.readBits .timerContact 255 8) ∧
  decode 0b0000001000000000000000111111111101000001#40 = .ok (.writeBits .contact 1023 512) ∧
  decode 0b0000000000001000001000000011111101100000#40 = .ok (.readBits .memorySpecial 8255 8) ∧
  decode 0b0000000000000011000000000000000110000110#40 = .ok (.writeW16 .timerCounter16 1 3) ∧
  decode 0b0000000000000001000111110100000010100100#40 = .ok (.readW16 .dataSpecial 8000 1) ∧
  decode 0b0000000000100000000000001100011110110110#40 = .ok (.writeW16 .counter16 199 32)

/-! ### A step -/

/-- The step is that of the command offered in `IDLE` (42_transactions R171) and of the command latched otherwise
(10_state R23), after the reset input is sampled (log 12). -/
def Obligations.StepRunsTheDecodedCommand : Prop :=
  (∀ (s : State) (o : Offer) (i : Instr), resetAsserted s = false → cfgWf s.cfg = true → s.fsm = .idle →
    offered s = some o → decode o.word = .ok i → step s = exec i { s with resets := s.resets.tail }) ∧
  ∀ (s : State) (i : Instr), resetAsserted s = false → cfgWf s.cfg = true → s.fsm ≠ .idle →
    s.cmd = some ⟨i.op, i.kind, i.addr, i.len⟩ → step s = exec i { s with resets := s.resets.tail }

/-- 70_reset_and_hazards R290 with the values of 10_state R34: asserting reset in any state, under any configuration,
takes one step that cannot fail, sets every field of the block and keeps `cfg`; what stands at the ports stays, which
is the model's choice (log 12). -/
def Obligations.ResetInAnyStateSetsEveryField : Prop :=
  ∀ (s : State) (rest : List Bool), s.resets = true :: rest →
    step s = .next { State.reset with
      cfg := s.cfg, resets := rest, offers := s.offers, turns := s.turns, flushAnswers := s.flushAnswers
      writeAnswers := s.writeAnswers, readAnswers := s.readAnswers, takes := s.takes, calls := s.calls
      delivered := s.delivered }

/-- 10_state R34: the values after reset that the spec gives; `cfg` is not among them (log 2). -/
def Obligations.ResetStateHoldsTheSpecsValues : Prop :=
  let s := State.reset
  fsmCode s.fsm = 0 ∧ busy s = false ∧ s.cmd = none ∧ s.wdataBits = [] ∧ s.wdataWords = [] ∧ s.raAddr = none ∧
  s.raSpan = none ∧ s.tx = [] ∧ s.txLen = none ∧ s.rx = [] ∧ s.rxExp = none ∧ s.rxLen = none ∧
  resKindCode s.resKind = 10 ∧ s.resValid = false ∧ s.outBits = [] ∧ s.outWords = []

/-- 70_reset_and_hazards R293: no step but a reset happens under an ill-formed configuration. -/
def Obligations.IllFormedConfigurationIsRefused : Prop :=
  ∀ s : State, resetAsserted s = false → cfgWf s.cfg = false → step s = .refused .illFormedConfig

/-- Where the block waits, nothing but the reset schedule changes: in `IDLE` with nothing offered (42_transactions
R189), in `AWAITING` without an answer to `Recv`, and with a result that nobody takes (R177). That a wait is a step to
the same state is the model's choice (log 5). -/
def Obligations.WaitsChangeNothing : Prop :=
  ∀ s : State, resetAsserted s = false → BlockInv s →
    (s.fsm = .idle ∧ s.offers = []) ∨ (s.fsm = .awaiting ∧ s.readAnswers = []) ∨
      ((s.fsm = .success ∨ s.fsm = .failed) ∧ s.takes = 0) →
    step s = .next { s with resets := s.resets.tail }

/-! ### Accept -/

/-- 42_transactions R171, 10_state R24: what every command's accept step writes, and that it writes nothing else. The
layout of the data port is the model's choice (log 8), and so is that a latched array is replaced whole (log 25). -/
def Obligations.AcceptLatchesTheCommandAndItsData : Prop :=
  ∀ (i : Instr) (s : State) (o : Offer), s.fsm = .idle → offered s = some o →
    exec i s = .next { s with
      fsm := .building, cmd := some ⟨i.op, i.kind, i.addr, i.len⟩, resKind := .inProgress, resValid := false
      wdataBits := if i.op = .writeBits then (List.range (min i.len.toNat 512)).map (fun j => o.data.getLsbD j)
        else s.wdataBits
      wdataWords := if i.op = .writeW16 then
          (List.range (min i.len.toNat 32)).map (fun j => o.data.extractLsb' (16 * j) 16)
        else s.wdataWords
      offers := s.offers.eraseIdx (offerIndex s), turns := s.turns.tail }

/-- 70_reset_and_hazards R298: once a command is accepted, what stands at the command port, data included, has no
effect on its transaction, and the transaction none on it (42_transactions R171: an offered command waits). -/
def Obligations.CommandPortHasNoEffectOnARunningTransaction : Prop :=
  ∀ (i : Instr) (s : State) (offers : List Offer) (turns : List Nat), s.fsm ≠ .idle →
    exec i (withPort offers turns s) = mapNext (withPort offers turns) (exec i s)

/-- 60_exceptions R276: any waiting command can be the next accepted. -/
def Obligations.AnyWaitingCommandCanBeNext : Prop :=
  ∀ (s : State) (n : Nat) (o : Offer), s.offers[n]? = some o →
    offered { s with turns := [n] } = some o ∧
    (∀ i t, s.fsm = .idle → exec i { s with turns := [n] } = .next t → t.offers = s.offers.eraseIdx n)

/-! ### Build and transmit -/

/-- 40_address_decoder R121: length 0 is refused for every command but a force, with no step and no result kind; the
block does not move. -/
def Obligations.ZeroLengthIsRefused : Prop :=
  ∀ (i : Instr) (s : State), s.fsm = .building → isForce i.op = false → i.len = 0 → exec i s = .refused .zeroLength

/-- 42_transactions R172, 60_exceptions R258: a command the decoder fails ends in `FAILED` with the decoder's kind, no
transport call and no other field written; that the payload fields stop holding a value in this step is log 4. -/
def Obligations.DecoderFailureMakesNoTransportCall : Prop :=
  ∀ (i : Instr) (s : State) (k : ResKind), s.fsm = .building →
    (isForce i.op = true → resolveForce s.cfg.regmap i.kind i.addr.toNat = .fail k) →
    (isForce i.op = false → resolve s.cfg.regmap i.op i.kind i.addr.toNat i.len.toNat = .fail k) →
    exec i s = .next { s with resKind := k, resValid := true, fsm := .failed, outBits := [], outWords := [] }

/-- 60_exceptions R254: the five address, type, alignment and length kinds are raised only by the build step, before
any transport call, and that step writes only `fsm`, `res_kind`, `res_valid` (and drops the payload, log 4). -/
def Obligations.PreIoFailuresComeFromTheBuildStepAlone : Prop :=
  ∀ (i : Instr) (s t : State), exec i s = .next t → s.fsm ≠ .failed → t.fsm = .failed → preIo t.resKind = true →
    s.fsm = .building ∧
    t = { s with resKind := t.resKind, resValid := true, fsm := .failed, outBits := [], outWords := [] }

/-- READ_BITS, READ_W16, READ_W32 (42_transactions R178, R182, R183; frame 30_encoding R88, checksum R93): with a
command the decoder passes and a transport that flushes and takes all 11 bytes, the build-and-transmit step ends in
`AWAITING` with the resolved address, the frame and the expected length written, and nothing else. -/
def Obligations.ReadRequestIsBuiltAndSent : Prop :=
  ∀ (i : Instr) (s : State) (r : Resolved) (flushes : List Bool) (writes : List Int),
    isRead i.op = true → s.fsm = .building → cfgWf s.cfg = true →
    resolve s.cfg.regmap i.op i.kind i.addr.toNat i.len.toNat = .ok r →
    s.flushAnswers = true :: flushes → s.writeAnswers = 11 :: writes →
    let dev := BitVec.ofNat 16 r.dev
    let body := [0x30#8] ++ hex4 dev ++ hex2 (BitVec.ofNat 8 r.bc) ++ [0x03#8]
    let frame := [0x02#8] ++ body ++ hex2 (sum8 body)
    exec i s = .next { s with
      fsm := .awaiting, raAddr := some ⟨r.lin, dev⟩, raSpan := some ⟨r.first, r.last, BitVec.ofNat 7 r.bc⟩
      tx := frame, txLen := some 11, rxExp := some (BitVec.ofNat 8 (4 + 2 * r.bc))
      flushAnswers := flushes, writeAnswers := writes, calls := s.calls ++ [.flushInput, .write frame] }

/-- WRITE_BITS (42_transactions R179; frame 30_encoding R89, checksum R93): the same for a write of the latched bits,
whose frame has `11 + 2·bc` bytes. -/
def Obligations.WriteBitsRequestIsBuiltAndSent : Prop :=
  ∀ (k : Kind) (addr len : Word) (s : State) (r : Resolved) (flushes : List Bool) (writes : List Int),
    s.fsm = .building → cfgWf s.cfg = true → s.wdataBits.length = len.toNat →
    resolve s.cfg.regmap .writeBits k addr.toNat len.toNat = .ok r →
    s.flushAnswers = true :: flushes → s.writeAnswers = ((11 + 2 * r.bc : Nat) : Int) :: writes →
    let dev := BitVec.ofNat 16 r.dev
    let body := [0x31#8] ++ hex4 dev ++ hex2 (BitVec.ofNat 8 r.bc) ++ hexs (packBits s.wdataBits) ++ [0x03#8]
    let frame := [0x02#8] ++ body ++ hex2 (sum8 body)
    exec (.writeBits k addr len) s = .next { s with
      fsm := .awaiting, raAddr := some ⟨r.lin, dev⟩, raSpan := some ⟨r.first, r.last, BitVec.ofNat 7 r.bc⟩
      tx := frame, txLen := some (BitVec.ofNat 8 (11 + 2 * r.bc)), rxExp := some 1
      flushAnswers := flushes, writeAnswers := writes, calls := s.calls ++ [.flushInput, .write frame] }

/-- WRITE_W16 (42_transactions R184; frame 30_encoding R89, checksum R93): the same for a write of the latched words,
whose frame has `11 + 4·len` bytes. -/
def Obligations.WriteWordsRequestIsBuiltAndSent : Prop :=
  ∀ (k : Kind) (addr len : Word) (s : State) (r : Resolved) (flushes : List Bool) (writes : List Int),
    s.fsm = .building → cfgWf s.cfg = true → s.wdataWords.length = len.toNat →
    resolve s.cfg.regmap .writeW16 k addr.toNat len.toNat = .ok r →
    s.flushAnswers = true :: flushes → s.writeAnswers = ((11 + 4 * len.toNat : Nat) : Int) :: writes →
    let dev := BitVec.ofNat 16 r.dev
    let body := [0x31#8] ++ hex4 dev ++ hex2 (BitVec.ofNat 8 (2 * len.toNat)) ++
      hexs (s.wdataWords.flatMap (fun w => [w.extractLsb' 0 8, w.extractLsb' 8 8])) ++ [0x03#8]
    let frame := [0x02#8] ++ body ++ hex2 (sum8 body)
    exec (.writeW16 k addr len) s = .next { s with
      fsm := .awaiting, raAddr := some ⟨r.lin, dev⟩, raSpan := some ⟨r.first, r.last, BitVec.ofNat 7 r.bc⟩
      tx := frame, txLen := some (BitVec.ofNat 8 (11 + 4 * len.toNat)), rxExp := some 1
      flushAnswers := flushes, writeAnswers := writes, calls := s.calls ++ [.flushInput, .write frame] }

/-- FORCE_SET and FORCE_CLEAR (42_transactions R180, R181; frame 30_encoding R90, checksum R93): the frame has 9 bytes,
its address field low byte first, its command byte 0x37 or 0x38; the span fields of the resolved address keep what
they hold (10_state R25, log 20). -/
def Obligations.ForceRequestIsBuiltAndSent : Prop :=
  ∀ (k : Kind) (addr len : Word) (s : State) (r : ResolvedBit) (flushes : List Bool) (writes : List Int),
    s.fsm = .building → cfgWf s.cfg = true → resolveForce s.cfg.regmap k addr.toNat = .ok r →
    s.flushAnswers = true :: flushes → s.writeAnswers = 9 :: writes →
    let dev := BitVec.ofNat 16 r.dev
    let body := fun command : Byte => [command] ++ (hex2 (dev.extractLsb' 0 8) ++ hex2 (dev.extractLsb' 8 8)) ++ [0x03#8]
    let frame := fun command : Byte => [0x02#8] ++ body command ++ hex2 (sum8 (body command))
    let sent := fun command : Byte => { s with
      fsm := .awaiting, raAddr := some ⟨r.lin, dev⟩, tx := frame command, txLen := some 9, rxExp := some 1
      flushAnswers := flushes, writeAnswers := writes, calls := s.calls ++ [.flushInput, .write (frame command)] }
    exec (.forceSet k addr len) s = .next (sent 0x37) ∧ exec (.forceClear k addr len) s = .next (sent 0x38)

/-- 60_exceptions R272, R274: of any command that a transport lets through to `AWAITING`, a failed flush ends in
TransmitFailure with nothing sent, and any write count but the frame's length ends in TransmitFailure after one write;
the request frame and the resolved address stand as the successful step writes them. -/
def Obligations.FlushOrWriteFailureIsTransmitFailure : Prop :=
  ∀ (i : Instr) (s t : State) (fs : List Bool) (w : Int) (ws : List Int), s.fsm = .building →
    s.flushAnswers = true :: fs → s.writeAnswers = w :: ws → exec i s = .next t → t.fsm = .awaiting →
    w = t.tx.length ∧
    (∀ fs', exec i { s with flushAnswers := false :: fs' } = .next { t with
      fsm := .failed, resKind := .transmitFailure, resValid := true, outBits := [], outWords := []
      flushAnswers := fs', writeAnswers := w :: ws, calls := s.calls ++ [.flushInput] }) ∧
    (∀ (w' : Int) (ws' : List Int), w' ≠ t.tx.length → exec i { s with writeAnswers := w' :: ws' } = .next { t with
      fsm := .failed, resKind := .transmitFailure, resValid := true, outBits := [], outWords := []
      writeAnswers := ws' })

/-- A transport that does not answer the flush, or the write after a good flush, leaves the block in `BUILDING` with
nothing changed (60_exceptions R277; that such a wait is a step to the same state is log 5 and log 6). -/
def Obligations.UnansweredTransmitLeavesTheBlockBuilding : Prop :=
  ∀ (i : Instr) (s t : State) (fs : List Bool), s.fsm = .building → s.flushAnswers = true :: fs →
    exec i s = .next t → t.fsm = .awaiting →
    exec i { s with flushAnswers := [] } = .next { s with flushAnswers := [] } ∧
    exec i { s with writeAnswers := [] } = .next { s with writeAnswers := [] }

/-- 30_encoding R94: the lengths of the request and of the response of every command that is sent, from the byte count
the step writes. -/
def Obligations.FrameLengthsAreThoseOfTheTable : Prop :=
  ∀ (i : Instr) (s t : State), s.fsm = .building → exec i s = .next t → t.fsm = .awaiting →
    ∃ bc, (isForce i.op = false → ∃ sp, t.raSpan = some sp ∧ sp.bc.toNat = bc ∧ 1 ≤ bc ∧ bc ≤ 64) ∧
      t.tx.length = requestLength i.op bc ∧ t.txLen = some (BitVec.ofNat 8 (requestLength i.op bc)) ∧
      t.rxExp = some (BitVec.ofNat 8 (responseLength i.op bc))

/-! ### Await -/

/-- 42_transactions R174: of every command, the block asks for exactly `rx_exp` bytes; that many bytes go to `rx`, and
an error or fewer bytes is a Timeout. What a longer answer holds beyond them is not read (R187, log 7). Nothing else
changes. -/
def Obligations.AwaitTakesTheExpectedBytesOrTimesOut : Prop :=
  ∀ (i : Instr) (s : State) (n : BitVec 8) (answers : List ReadAnswer), s.fsm = .awaiting → s.rxExp = some n →
    (∀ b, s.readAnswers = .bytes b :: answers → n.toNat ≤ b.length →
      exec i s = .next { s with
        fsm := .validating, rx := b.take n.toNat, rxLen := some n, readAnswers := answers
        calls := s.calls ++ [.read n.toNat] }) ∧
    (∀ a, s.readAnswers = a :: answers → (a = .error ∨ ∃ b, a = .bytes b ∧ b.length < n.toNat) →
      exec i s = .next { s with
        fsm := .failed, resKind := .timeout, resValid := true, outBits := [], outWords := [], readAnswers := answers
        calls := s.calls ++ [.read n.toNat] })

/-! ### Validate -/

/-- 42_transactions R176: the acknowledgement of WRITE_BITS, FORCE_SET, FORCE_CLEAR and WRITE_W16 is the one byte ACK;
NAK or any other byte is NotAcknowledged. Nothing but the result is written; that the payload fields hold no value
after it is 10_state R29 (log 4). -/
def Obligations.AcknowledgementIsTheAckByte : Prop :=
  ∀ (i : Instr) (s : State) (b : Byte), isRead i.op = false → s.fsm = .validating → s.rx = [b] → s.rxLen = some 1 →
    exec i s =
      if b = 0x06 then
        .next { s with fsm := .success, resKind := .success, resValid := true, outBits := [], outWords := [] }
      else
        .next { s with fsm := .failed, resKind := .notAcknowledged, resValid := true, outBits := [], outWords := [] }

/-- 42_transactions R175 with 41_frame_codec R147, R152, R153: the checks of a read response in their order, of
READ_BITS, READ_W16 and READ_W32; a response that fails one writes the result and nothing else (and drops the payload,
10_state R29, log 4), and one that passes all three has passed `checkResponse` with the decoded data as its payload,
which is where ReadBitsWritesTheBitsOfTheResponse and WordReadsWriteTheWordsOfTheResponse go on. That a response of odd
length has no data (`data = none`) is the model's choice (log 27); the block receives none. -/
def Obligations.ReadResponseChecksInOrder : Prop :=
  ∀ (i : Instr) (s : State) (r : List Byte), isRead i.op = true → s.fsm = .validating → s.rx = r →
    s.rxLen = some (BitVec.ofNat 8 r.length) → 4 ≤ r.length → r.length ≤ 132 →
    let failure := fun k : ResKind =>
      { s with fsm := .failed, resKind := k, resValid := true, outBits := [], outWords := [] }
    let expected := hex2 (sum8 ((r.drop 1).take (r.length - 3)))
    let received := r.drop (r.length - 2)
    let matches_ := match s.cfg.checksumMatch with
      | .both => received = expected
      | .either => received[0]? = expected[0]? ∨ received[1]? = expected[1]?
    let marked := r[0]? = some 0x02#8 ∧ r[r.length - 3]? = some 0x03#8
    let data := unhexs s.cfg.hexAcceptLower ((r.drop 1).take (r.length - 4))
    (¬matches_ → exec i s = .next (failure .checksumMismatch)) ∧
    (matches_ → s.cfg.checkMarkers = true → ¬marked → exec i s = .next (failure .malformedResponse)) ∧
    (matches_ → (s.cfg.checkMarkers = true → marked) → data = none →
      exec i s = .next (failure .malformedResponse)) ∧
    (∀ p, matches_ → (s.cfg.checkMarkers = true → marked) → data = some p → checkResponse s.cfg r = .ok p)

/-- READ_BITS (42_transactions R178, 43_payload_codec R222): a response that passes the checks gives Success and the
`len` bits from the requested start, or from bit 0 of the first byte; nothing else changes. That `out_words` is among
what a successful READ_BITS leaves is log 22 (DEDUCED); that `out_bits` holds nothing past `len` is log 25, and
what is taken of a payload longer than the command asks for log 27 (both DESIGN CHOICE). -/
def Obligations.ReadBitsWritesTheBitsOfTheResponse : Prop :=
  ∀ (k : Kind) (addr len : Word) (s : State) (ra : RaAddr) (r p : List Byte),
    s.fsm = .validating → s.raAddr = some ra → s.rx = r → s.rxLen = some (BitVec.ofNat 8 r.length) →
    4 ≤ r.length → r.length ≤ 132 → checkResponse s.cfg r = .ok p → ra.lin % 8 + len.toNat ≤ 8 * p.length →
    let start := match s.cfg.readBitsOrigin with
      | .requested => ra.lin % 8
      | .byteBoundary => 0
    ∃ bits, exec (.readBits k addr len) s =
        .next { s with fsm := .success, resKind := .success, resValid := true, outBits := bits } ∧
      bits.length = len.toNat ∧
      ∀ j, j < len.toNat → ∃ b, p[(start + j) / 8]? = some b ∧ bits[j]? = some (b.getLsbD ((start + j) % 8))

/-- READ_W16 and READ_W32 (42_transactions R182, R183; 43_payload_codec R224, R226, R227): a response that passes the
checks gives Success and one word of output for each two bytes, the low byte first, `len` words or `2·len`; nothing
else changes. That `out_bits` is among what a successful word read leaves is log 22 (DEDUCED); that `out_words` holds
nothing past the read's words is log 25, and what is taken of a payload longer than the command asks for log 27 (both
DESIGN CHOICE). -/
def Obligations.WordReadsWriteTheWordsOfTheResponse : Prop :=
  ∀ (k : Kind) (addr len : Word) (s : State) (r p : List Byte),
    s.fsm = .validating → s.rx = r → s.rxLen = some (BitVec.ofNat 8 r.length) →
    4 ≤ r.length → r.length ≤ 132 → checkResponse s.cfg r = .ok p →
    (∀ (i : Instr) (n : Nat), (i = .readW16 k addr len ∧ n = len.toNat) ∨ (i = .readW32 k addr len ∧ n = 2 * len.toNat) →
      2 * n ≤ p.length →
      ∃ words, exec i s = .next { s with fsm := .success, resKind := .success, resValid := true, outWords := words } ∧
        words.length = n ∧
        ∀ j, j < n → ∃ lo hi, p[2 * j]? = some lo ∧ p[2 * j + 1]? = some hi ∧ words[j]? = some (hi ++ lo))

/-- 30_encoding R91, R93 with 41_frame_codec R147, R153: under every configuration, a response laid out as the format
says passes the checks and gives its data bytes. -/
def Obligations.CorrectResponsePassesEveryCheck : Prop :=
  ∀ (c : Cfg) (p : List Byte),
    checkResponse c ([0x02#8] ++ hexs p ++ [0x03#8] ++ hex2 (sum8 (hexs p ++ [0x03#8]))) = .ok p

/-! ### Deliver -/

/-- 42_transactions R177: of every command, the result is offered until a caller takes it; then the caller gets the
kind and, after a successful read, the bits or the words (log 19, log 25), and the block is idle. -/
def Obligations.DeliverHandsOverTheResult : Prop :=
  ∀ (i : Instr) (s : State) (n : Nat), s.takes = n + 1 → s.fsm = .success ∨ s.fsm = .failed →
    exec i s = .next { s with
      fsm := .idle, resValid := false, takes := n
      delivered := s.delivered ++ [⟨s.resKind,
        if s.fsm = .failed then .none
        else if i.op = .readBits then .bits s.outBits
        else if i.op = .readW16 ∨ i.op = .readW32 then .words s.outWords
        else .none⟩] }

/-! ### Whole transactions -/

/-- READ_BITS from the offer to the delivered bits (42_transactions R170, R178; 43_payload_codec R222), when the PLC
answers with the bytes `p`: five steps, three transport calls, the requested bits delivered. -/
def Obligations.ReadBitsTransactionDeliversTheBits : Prop :=
  ∀ (s : State) (o : Offer) (k : Kind) (addr len : Word) (r : Resolved) (p : List Byte) (fs : List Bool)
    (ws : List Int) (as : List ReadAnswer) (n : Nat),
    s.fsm = .idle → s.resets = [] → cfgWf s.cfg = true → offered s = some o →
    decode o.word = .ok (.readBits k addr len) → resolve s.cfg.regmap .readBits k addr.toNat len.toNat = .ok r →
    p.length = r.bc → s.flushAnswers = true :: fs → s.writeAnswers = 11 :: ws →
    s.readAnswers = .bytes (readResponse p) :: as → s.takes = n + 1 →
    let start := match s.cfg.readBitsOrigin with
      | .requested => r.lin % 8
      | .byteBoundary => 0
    let body := [0x30#8] ++ hex4 (BitVec.ofNat 16 r.dev) ++ hex2 (BitVec.ofNat 8 r.bc) ++ [0x03#8]
    ∃ t bits, run 5 s = .next t ∧ t.fsm = .idle ∧ t.resKind = .success ∧ t.cfg = s.cfg ∧
      t.delivered = s.delivered ++ [⟨.success, .bits bits⟩] ∧ bits.length = len.toNat ∧
      (∀ j, j < len.toNat → ∃ b, p[(start + j) / 8]? = some b ∧ bits[j]? = some (b.getLsbD ((start + j) % 8))) ∧
      t.calls = s.calls ++
        [.flushInput, .write ([0x02#8] ++ body ++ hex2 (sum8 body)), .read (4 + 2 * r.bc)] ∧
      t.offers = s.offers.eraseIdx (offerIndex s) ∧ t.flushAnswers = fs ∧ t.writeAnswers = ws ∧ t.readAnswers = as ∧
      t.takes = n

/-- READ_W16 and READ_W32 from the offer to the delivered words (42_transactions R170, R182, R183; 43_payload_codec
R226, R227), when the PLC answers with the bytes `p`. -/
def Obligations.WordReadTransactionDeliversTheWords : Prop :=
  ∀ (s : State) (o : Offer) (i : Instr) (count : Nat) (r : Resolved) (p : List Byte) (fs : List Bool)
    (ws : List Int) (as : List ReadAnswer) (n : Nat),
    (i.op = .readW16 ∧ count = i.len.toNat) ∨ (i.op = .readW32 ∧ count = 2 * i.len.toNat) →
    s.fsm = .idle → s.resets = [] → cfgWf s.cfg = true → offered s = some o → decode o.word = .ok i →
    resolve s.cfg.regmap i.op i.kind i.addr.toNat i.len.toNat = .ok r →
    p.length = r.bc → s.flushAnswers = true :: fs → s.writeAnswers = 11 :: ws →
    s.readAnswers = .bytes (readResponse p) :: as → s.takes = n + 1 →
    let body := [0x30#8] ++ hex4 (BitVec.ofNat 16 r.dev) ++ hex2 (BitVec.ofNat 8 (2 * count)) ++ [0x03#8]
    ∃ t words, run 5 s = .next t ∧ t.fsm = .idle ∧ t.resKind = .success ∧ t.cfg = s.cfg ∧
      t.delivered = s.delivered ++ [⟨.success, .words words⟩] ∧ words.length = count ∧
      (∀ j, j < count → ∃ lo hi, p[2 * j]? = some lo ∧ p[2 * j + 1]? = some hi ∧ words[j]? = some (hi ++ lo)) ∧
      t.calls = s.calls ++
        [.flushInput, .write ([0x02#8] ++ body ++ hex2 (sum8 body)), .read (4 + 4 * count)] ∧
      t.offers = s.offers.eraseIdx (offerIndex s) ∧ t.flushAnswers = fs ∧ t.writeAnswers = ws ∧ t.readAnswers = as ∧
      t.takes = n

/-- WRITE_BITS and WRITE_W16 from the offer to the delivered result (42_transactions R170, R179, R184): five steps, one
request that carries the data offered with the command, Success exactly when the one byte asked for is ACK. The layout of
the data port is the model's choice (log 8). That bytes of an answer past that one (`more`) are not read is R187 and
log 7 (DEDUCED); the transport gives none (60_exceptions R273). -/
def Obligations.WriteTransactionSendsTheOfferedData : Prop :=
  ∀ (s : State) (o : Offer) (i : Instr) (payload : List Byte) (r : Resolved) (b : Byte) (more : List Byte)
    (fs : List Bool) (ws : List Int) (as : List ReadAnswer) (n : Nat),
    (i.op = .writeBits ∧ payload = packBits ((List.range i.len.toNat).map (fun j => o.data.getLsbD j))) ∨
      (i.op = .writeW16 ∧
        payload = wordsToBytes ((List.range i.len.toNat).map (fun j => o.data.extractLsb' (16 * j) 16))) →
    s.fsm = .idle → s.resets = [] → cfgWf s.cfg = true → offered s = some o → decode o.word = .ok i →
    resolve s.cfg.regmap i.op i.kind i.addr.toNat i.len.toNat = .ok r →
    s.flushAnswers = true :: fs → s.writeAnswers = ((11 + 2 * r.bc : Nat) : Int) :: ws →
    s.readAnswers = .bytes (b :: more) :: as → s.takes = n + 1 →
    let body := [0x31#8] ++ hex4 (BitVec.ofNat 16 r.dev) ++ hex2 (BitVec.ofNat 8 r.bc) ++ hexs payload ++ [0x03#8]
    let kind := if b = 0x06 then ResKind.success else ResKind.notAcknowledged
    payload.length = r.bc ∧
    ∃ t, run 5 s = .next t ∧ t.fsm = .idle ∧ t.resKind = kind ∧ t.cfg = s.cfg ∧
      t.delivered = s.delivered ++ [⟨kind, .none⟩] ∧
      t.calls = s.calls ++ [.flushInput, .write ([0x02#8] ++ body ++ hex2 (sum8 body)), .read 1] ∧
      t.offers = s.offers.eraseIdx (offerIndex s) ∧ t.flushAnswers = fs ∧ t.writeAnswers = ws ∧ t.readAnswers = as ∧
      t.takes = n

/-- FORCE_SET and FORCE_CLEAR from the offer to the delivered result (42_transactions R170, R180, R181): five steps,
one request with the swapped address field, Success exactly when the one byte asked for is ACK. That bytes of an answer
past that one (`more`) are not read is R187 and log 7 (DEDUCED); the transport gives none (60_exceptions R273). -/
def Obligations.ForceTransactionNamesOneBit : Prop :=
  ∀ (s : State) (o : Offer) (i : Instr) (command : Byte) (r : ResolvedBit) (b : Byte) (more : List Byte)
    (fs : List Bool) (ws : List Int) (as : List ReadAnswer) (n : Nat),
    (i.op = .forceSet ∧ command = 0x37) ∨ (i.op = .forceClear ∧ command = 0x38) →
    s.fsm = .idle → s.resets = [] → cfgWf s.cfg = true → offered s = some o → decode o.word = .ok i →
    resolveForce s.cfg.regmap i.kind i.addr.toNat = .ok r →
    s.flushAnswers = true :: fs → s.writeAnswers = 9 :: ws →
    s.readAnswers = .bytes (b :: more) :: as → s.takes = n + 1 →
    let dev := BitVec.ofNat 16 r.dev
    let body := [command] ++ (hex2 (dev.extractLsb' 0 8) ++ hex2 (dev.extractLsb' 8 8)) ++ [0x03#8]
    let kind := if b = 0x06 then ResKind.success else ResKind.notAcknowledged
    ∃ t, run 5 s = .next t ∧ t.fsm = .idle ∧ t.resKind = kind ∧ t.cfg = s.cfg ∧
      t.delivered = s.delivered ++ [⟨kind, .none⟩] ∧
      t.calls = s.calls ++ [.flushInput, .write ([0x02#8] ++ body ++ hex2 (sum8 body)), .read 1] ∧
      t.offers = s.offers.eraseIdx (offerIndex s) ∧ t.flushAnswers = fs ∧ t.writeAnswers = ws ∧ t.readAnswers = as ∧
      t.takes = n

/-- A command the decoder fails, from the offer to the delivered kind (60_exceptions R254): three steps, no transport
call, no answer used. -/
def Obligations.FailedCommandTransactionTouchesNoTransport : Prop :=
  ∀ (s : State) (o : Offer) (i : Instr) (k : ResKind) (n : Nat),
    s.fsm = .idle → s.resets = [] → cfgWf s.cfg = true → offered s = some o → decode o.word = .ok i →
    (isForce i.op = true → resolveForce s.cfg.regmap i.kind i.addr.toNat = .fail k) →
    (isForce i.op = false → resolve s.cfg.regmap i.op i.kind i.addr.toNat i.len.toNat = .fail k) →
    s.takes = n + 1 →
    ∃ t, run 3 s = .next t ∧ t.fsm = .idle ∧ t.resKind = k ∧ t.delivered = s.delivered ++ [⟨k, .none⟩] ∧
      t.calls = s.calls ∧ t.flushAnswers = s.flushAnswers ∧ t.writeAnswers = s.writeAnswers ∧
      t.readAnswers = s.readAnswers ∧ t.raAddr = s.raAddr ∧ t.raSpan = s.raSpan ∧ t.tx = s.tx ∧ t.rx = s.rx ∧
      t.cfg = s.cfg

/-! ### The address decoder -/

/-- 40_address_decoder R128: on an admitted input the decoder gives an address or exactly one of the five kinds and
never refuses; the force decoder refuses no kind and no address. -/
def Obligations.DecoderAnswersEveryAdmittedCommand : Prop :=
  (∀ (m : RegMap) (op : Op) (k : Kind) (addr len : Nat), len ≠ 0 →
    (∃ r, resolve m op k addr len = .ok r) ∨ ∃ f, resolve m op k addr len = .fail f ∧ preIo f = true) ∧
  ∀ (m : RegMap) (k : Kind) (addr : Nat),
    (∃ r, resolveForce m k addr = .ok r) ∨
      ∃ f, resolveForce m k addr = .fail f ∧ preIo f = true ∧ f ≠ .tooManyBytes ∧ f ≠ .addressMisaligned

/-- 40_address_decoder R113, R116, R117, R118: of every command the decoder passes, the linear address is that of the
user address less the minimum, by the converter of R114 and R115 (OctalStyleConverterIsOneToOne gives its formula); and
device address, first and last byte and byte count follow from the linear address, by class. -/
def Obligations.ResolvedAddressFollowsTheClassFormulas : Prop :=
  ∀ (m : RegMap) (op : Op) (k : Kind) (addr len : Nat) (r : Resolved), resolve m op k addr len = .ok r →
    ((mapEntry m k).min.toNat ≤ addr ∧ addr ≤ (mapEntry m k).max.toNat ∧
      r.lin = linearise k (addr - (mapEntry m k).min.toNat)) ∧
    (kindClass k = .bit → r.dev = (mapEntry m k).base.toNat + r.lin / 8 ∧ r.first = r.lin / 8 ∧
      r.last = (r.lin + len - 1) / 8 ∧ r.bc = r.last - r.first + 1 ∧
      ∀ n, r.lin ≤ n → n < r.lin + len → r.first ≤ n / 8 ∧ n / 8 ≤ r.last) ∧
    (kindClass k = .w16 → r.dev = (mapEntry m k).base.toNat + 2 * r.lin ∧ r.first = r.lin ∧
      r.last = r.lin + 2 * len - 1 ∧ r.bc = 2 * len) ∧
    (kindClass k = .w32 → r.dev = (mapEntry m k).base.toNat + 4 * r.lin ∧ r.first = r.lin ∧
      r.last = r.lin + 4 * len - 1 ∧ r.bc = 4 * len)

/-- 40_address_decoder R124, R111, R112, with 60_exceptions R256: the kind check, then the digit check, then the range
check, for both decoder functions; first, which kinds each operation admits (30_encoding R98) by their class (20_memory
R51). -/
def Obligations.KindThenDigitThenRangeAreChecked : Prop :=
  ∀ (m : RegMap) (op : Op) (k : Kind) (addr len : Nat), len ≠ 0 →
    let e := mapEntry m k
    (kindClass k = .bit ↔ k ∈ [.state, .inputContact, .outputContact, .timerContact, .contact, .memoryContact,
      .memorySpecial]) ∧
    (kindClass k = .w32 ↔ k = .counter32) ∧
    (admits op k = true ↔ kindClass k = match op with
      | .readBits | .writeBits | .forceSet | .forceClear => .bit
      | .readW16 | .writeW16 => .w16
      | .readW32 => .w32) ∧
    (admits op k = false → resolve m op k addr len = .fail .incorrectDataType) ∧
    (admits op k = true → addr % 10 > e.nbase - 1 → resolve m op k addr len = .fail .incorrectAddressFormat) ∧
    (admits op k = true → addr % 10 ≤ e.nbase - 1 → addr < e.min.toNat ∨ addr > e.max.toNat →
      resolve m op k addr len = .fail .addressOutOfRange) ∧
    (kindClass k ≠ .bit → resolveForce m k addr = .fail .incorrectDataType) ∧
    (kindClass k = .bit → addr % 10 > e.nbase - 1 → resolveForce m k addr = .fail .incorrectAddressFormat) ∧
    (kindClass k = .bit → addr % 10 ≤ e.nbase - 1 → addr < e.min.toNat ∨ addr > e.max.toNat →
      resolveForce m k addr = .fail .addressOutOfRange) ∧
    (kindClass k = .bit → addr % 10 ≤ e.nbase - 1 → e.min.toNat ≤ addr → addr ≤ e.max.toNat →
      resolveForce m k addr = .ok ⟨linearise k (addr - e.min.toNat), e.fbase.toNat + linearise k (addr - e.min.toNat)⟩)

/-- 40_address_decoder R119: for a command that passes the kind, digit and range checks, the ceiling of 64 bytes is a
bound on the length, 32 registers, 16 double registers or `512 − lin % 8` bits, and a longer one fails with
TooManyBytes whatever its alignment (R127). -/
def Obligations.ByteCeilingIsABoundOnTheLength : Prop :=
  ∀ (m : RegMap) (op : Op) (k : Kind) (addr len lin : Nat), len ≠ 0 → admits op k = true → isForce op = false →
    linearOf k (mapEntry m k) addr = .ok lin →
    let bound := match kindClass k with
      | .bit => 512 - lin % 8
      | .w16 => 32
      | .w32 => 16
    (len > bound → resolve m op k addr len = .fail .tooManyBytes) ∧
    (len ≤ bound → (op = .writeBits → lin % 8 = 0) → ∃ r, resolve m op k addr len = .ok r ∧ r.lin = lin ∧
      1 ≤ r.bc ∧ r.bc ≤ 64)

/-- 40_address_decoder R127: a WRITE_BITS that passes steps 1 to 6 succeeds exactly when its linear address is a
multiple of 8 and fails with AddressMisaligned otherwise; one that an earlier step fails has that step's kind, whatever
its alignment; no other command ever fails with AddressMisaligned. -/
def Obligations.OnlyWriteBitsChecksAlignment : Prop :=
  (∀ (m : RegMap) (k : Kind) (addr len : Nat) (r : Resolved), resolve m .readBits k addr len = .ok r →
    resolve m .writeBits k addr len = if r.lin % 8 = 0 then .ok r else .fail .addressMisaligned) ∧
  (∀ (m : RegMap) (k : Kind) (addr len : Nat) (f : ResKind), resolve m .readBits k addr len = .fail f →
    resolve m .writeBits k addr len = .fail f) ∧
  (∀ (m : RegMap) (op : Op) (k : Kind) (addr len : Nat),
    resolve m op k addr len = .fail .addressMisaligned → op = .writeBits) ∧
  ∀ (m : RegMap) (k : Kind) (addr : Nat), resolveForce m k addr ≠ .fail .addressMisaligned

/-- 40_address_decoder R114, R115: the octal-style converter on the two contact kinds, which makes of the decade
`10q .. 10q+7` the addresses `8q .. 8q+7`, is one-to-one on the normalised addresses `n` whose own last digit is 0 to 7
and is not true octal above 77; and the identity on every other kind. The digit is that of `n`, not of the user address:
the last clause of R114, on user addresses, does not follow under every well-formed map and is not stated (log 26). -/
def Obligations.OctalStyleConverterIsOneToOne : Prop :=
  (∀ (k : Kind) (n : Nat), k = .inputContact ∨ k = .outputContact → linearise k n = 8 * (n / 10) + n % 10) ∧
  (∀ (k : Kind) (q d : Nat), k = .inputContact ∨ k = .outputContact → d ≤ 7 →
    linearise k (10 * q + d) = 8 * q + d) ∧
  (∀ (k : Kind) (a b : Nat), k = .inputContact ∨ k = .outputContact → a % 10 ≤ 7 → b % 10 ≤ 7 →
    linearise k a = linearise k b → a = b) ∧
  (∀ (k : Kind) (n : Nat), k ≠ .inputContact → k ≠ .outputContact → linearise k n = n) ∧
  linearise .inputContact 77 = 63 ∧ linearise .inputContact 80 = 64 ∧ linearise .inputContact 100 = 80 ∧
  linearise .inputContact 123 = 99

/-- 20_memory R54 to R57: a map is well-formed exactly when every kind has the number base and the unit of its kind, a
range that is not empty and device addresses that fit 16 bits, and the map meets the constraints of the scenarios. Under
such a map every device address the decoder computes fits 16 bits, of both spaces, and Scenarios A, B and C resolve as
40_address_decoder R129 says. The reading of `Lmax` as the largest linear address of any normalised address up to
`max − min` is log 10 (DEDUCED). -/
def Obligations.DeviceAddressesFitUnderAWellFormedMap : Prop :=
  (∀ m : RegMap, regMapWf m = true ↔
    (∀ k : Kind,
      let e := mapEntry m k
      e.nbase = (if k = .inputContact ∨ k = .outputContact then 8 else 10) ∧
      e.unit = (match kindClass k with
        | .bit => 0
        | .w16 => 2
        | .w32 => 4) ∧
      e.min.toNat ≤ e.max.toNat ∧
      ∀ n, n ≤ e.max.toNat - e.min.toNat →
        match kindClass k with
        | .bit => e.base.toNat + linearise k n / 8 ≤ 0xFFFF ∧ e.fbase.toNat + linearise k n ≤ 0xFFFF
        | .w16 => e.base.toNat + 2 * linearise k n ≤ 0xFFFF
        | .w32 => e.base.toNat + 4 * linearise k n ≤ 0xFFFF) ∧
    (m.data.min.toNat ≤ 20 ∧ 20 ≤ m.data.max.toNat ∧ m.data.base.toNat + 2 * (20 - m.data.min.toNat) = 0x1028) ∧
    (m.outputContact.min.toNat ≤ 10 ∧ 10 ≤ m.outputContact.max.toNat ∧
      8 * ((10 - m.outputContact.min.toNat) / 10) + (10 - m.outputContact.min.toNat) % 10 = 8 ∧
      m.outputContact.base.toNat + 1 = 0x00A1) ∧
    m.memoryContact.min.toNat = 0 ∧ 500 ≤ m.memoryContact.max.toNat ∧ m.memoryContact.fbase.toNat = 0x0800) ∧
  (∀ m : RegMap, regMapWf m = true →
    (∃ r, resolve m .readW16 .data 20 2 = .ok r ∧ r.dev = 0x1028 ∧ r.bc = 4) ∧
    (∃ r, resolve m .readBits .outputContact 10 2 = .ok r ∧ r.lin = 8 ∧ r.dev = 0x00A1 ∧ r.bc = 1) ∧
    resolveForce m .memoryContact 500 = .ok ⟨500, 0x09F4⟩) ∧
  ∀ (m : RegMap) (k : Kind) (addr : Nat), regMapWf m = true →
    (∀ op len r, resolve m op k addr len = .ok r → r.dev ≤ 0xFFFF) ∧
    ∀ r, resolveForce m k addr = .ok r → r.dev ≤ 0xFFFF

/-! ### The codecs -/

/-- 41_frame_codec R140, R141, R145, R147, R148: a byte is two characters, the high nibble's first; exactly the sequences
of even length and of hex characters decode, lowercase ones only with `HEX_ACCEPT_LOWER`; decoding what the encoder
gives gives it back, and encoding what a decode gives gives the characters back with their lowercase letters made
uppercase, and the characters themselves where none is lowercase. The character codes are log 13 (PRESUMED); that a
sequence of odd length decodes to nothing is the model's choice, R147 giving it for even length only (log 27). -/
def Obligations.HexCodecRoundTrips : Prop :=
  (∀ b : Byte, (hex2 b).map BitVec.toNat =
    [b.toNat / 16, b.toNat % 16].map (fun v => if v ≤ 9 then 0x30 + v else 0x37 + v)) ∧
  (∀ (lower : Bool) (t : List Byte), (∃ s, unhexs lower t = some s) ↔
    t.length % 2 = 0 ∧ ∀ c ∈ t, (0x30 ≤ c.toNat ∧ c.toNat ≤ 0x39) ∨ (0x41 ≤ c.toNat ∧ c.toNat ≤ 0x46) ∨
      (lower = true ∧ 0x61 ≤ c.toNat ∧ c.toNat ≤ 0x66)) ∧
  (∀ (lower : Bool) (s : List Byte), unhexs lower (hexs s) = some s) ∧
  ∀ (lower : Bool) (t s : List Byte), unhexs lower t = some s →
    hexs s = t.map upperHex ∧
    ((∀ c ∈ t, ¬(0x61 ≤ c.toNat ∧ c.toNat ≤ 0x66)) → hexs s = t)

/-- 41_frame_codec R150: the checksum is the sum of the bytes mod 256. -/
def Obligations.ChecksumIsTheSumMod256 : Prop :=
  ∀ s : List Byte, (sum8 s).toNat = (s.map BitVec.toNat).sum % 256

/-- 41_frame_codec R154: one changed byte always changes the checksum; a reordering never does. -/
def Obligations.ChecksumSeesOneByteAndNoOrder : Prop :=
  (∀ (a b : List Byte) (x y : Byte), sum8 (a ++ [x] ++ b) = sum8 (a ++ [y] ++ b) ↔ x = y) ∧
  ∀ a b : List Byte, a.Perm b → sum8 a = sum8 b

/-- Scenario E (95_test_vectors 2.5) in general, with `CHECKSUM_MATCH = BOTH` (41_frame_codec R153): a correct response
with any one byte from the first data character to the last checksum character changed fails with ChecksumMismatch. -/
def Obligations.OneCorruptedByteIsAChecksumMismatch : Prop :=
  ∀ (c : Cfg) (p pre post : List Byte) (x y : Byte), c.checksumMatch = .both → pre ≠ [] →
    readResponse p = pre ++ [x] ++ post → x ≠ y →
    checkResponse c (pre ++ [y] ++ post) = .error .checksumMismatch

/-- 41_frame_codec R144: the force address field is the four digits of `hex4` in the order 2, 3, 0, 1, which is the low
byte's two digits and then the high byte's. The characters of the example 0x09F4 are log 13 (PRESUMED). -/
def Obligations.ForceAddressFieldIsPairSwapped : Prop :=
  (∀ d : Word, ∃ c0 c1 c2 c3, hex4 d = [c0, c1, c2, c3] ∧ hex4Force d = [c2, c3, c0, c1]) ∧
  (∀ d : Word, hex4Force d = hex2 (d.extractLsb' 0 8) ++ hex2 (d.extractLsb' 8 8)) ∧
  hex4Force 0x09F4 = [0x46, 0x34, 0x30, 0x39]

/-- 43_payload_codec R223: `pack_bits` gives `(len + 7) / 8` bytes; bit `b` of byte `k` is `D[8k + b]`, and 0 past the
array's end. -/
def Obligations.PackedBitsAreLsbFirstWithZeroPad : Prop :=
  ∀ d : List Bool, (packBits d).length = (d.length + 7) / 8 ∧
    ∀ k, k < (d.length + 7) / 8 → ∃ x, (packBits d)[k]? = some x ∧
      ∀ b, b < 8 → x.getLsbD b = (d[8 * k + b]?).getD false

/-- 43_payload_codec R220 to R226: what a write packs, a read of the same units unpacks, bits and words. -/
def Obligations.PayloadRoundTrips : Prop :=
  (∀ (o : BitsOrigin) (lin : Nat) (d : List Bool), lin % 8 = 0 →
    unpackBits o lin d.length (packBits d) = some d) ∧
  ∀ w : List Word, bytesToWords w.length (wordsToBytes w) = some w

/-- 43_payload_codec R232, with R228 to R231: the low register of a pair holds bits 15 to 0 and the high one bits 31 to
16, and their device bytes ascend from the least significant; unsigned, signed (two's complement, log 14) and float
values survive a round trip through a register pair at any offset of a register buffer. -/
def Obligations.RegisterPairsRoundTrip : Prop :=
  (∀ lo hi : Word, (pair32 lo hi).toNat = lo.toNat + 65536 * hi.toNat) ∧
  (∀ v : DWord, (split32 v).1.toNat = v.toNat % 65536 ∧ (split32 v).2.toNat = v.toNat / 65536 ∧
    wordsToBytes [(split32 v).1, (split32 v).2] =
      [v.extractLsb' 0 8, v.extractLsb' 8 8, v.extractLsb' 16 8, v.extractLsb' 24 8]) ∧
  (∀ v : DWord, pair32 (split32 v).1 (split32 v).2 = v) ∧
  (∀ u : Nat, u < 2 ^ 32 → ∃ p, encodeU32 u = some p ∧ u32 p.1 p.2 = u) ∧
  (∀ x : Int, -(2 ^ 31) ≤ x → x ≤ 2 ^ 31 - 1 → ∃ p, encodeI32 x = some p ∧ i32 p.1 p.2 = x) ∧
  (∀ f : F32, f32 (encodeF32 f).1 (encodeF32 f).2 = f) ∧
  ∀ (buf : List Word) (k : Nat) (p : Word × Word), k + 1 < buf.length →
    ∃ b, putPair buf k p = some b ∧ b.length = buf.length ∧ getPair b k = some p ∧
      ∀ j, j ≠ k → j ≠ k + 1 → b[j]? = buf[j]?

/-! ### The whole machine -/

/-- The invariant of the block holds after reset (10_state R34). -/
def Obligations.InvariantHoldsAtReset : Prop := BlockInv State.reset

/-- Every step keeps the invariant, from every state that meets it (10_state R22 to R29; 42_transactions R171 to
R177): the result flag and kind follow the sequencer, the latches hold the running command, its data and its resolved
address, and the buffers hold what their length fields count. The lengths of the latched data rest on log 25. -/
def Obligations.EveryStepKeepsTheInvariant : Prop :=
  ∀ s t : State, BlockInv s → step s = .next t → BlockInv t

/-- No rule reads a field that holds no value and no value misses its field (10_state R35; 20_memory R56): from every
state that meets the invariant a step never faults. -/
def Obligations.NoStepFaultsFromAGoodState : Prop :=
  ∀ (s : State) (f : Fault), BlockInv s → step s ≠ .fault f

/-- A step is refused only for a reserved word in `IDLE` or a zero length in `BUILDING` (60_exceptions R256, first
line), from every state that meets the invariant. -/
def Obligations.OnlyTwoInputsAreRefused : Prop :=
  ∀ (s : State) (x : Refusal), BlockInv s → step s = .refused x →
    (x = .reservedEncoding ∧ s.fsm = .idle ∧ ∃ o e, offered s = some o ∧ decode o.word = .error e) ∨
    (x = .zeroLength ∧ s.fsm = .building ∧ ∃ c, s.cmd = some c ∧ isForce c.op = false ∧ c.len = 0)

/-- 42_transactions R189, R185: a step follows an edge of the transition table, or reset is asserted and the block is
idle after it. -/
def Obligations.SequencerFollowsItsTransitionTable : Prop :=
  ∀ s t : State, step s = .next t →
    (resetAsserted s = false ∧ edge s.fsm t.fsm = true) ∨ (resetAsserted s = true ∧ t.fsm = .idle)

/-- 10_state R21: no step changes the configuration. -/
def Obligations.NoStepChangesTheConfiguration : Prop :=
  ∀ s t : State, step s = .next t → t.cfg = s.cfg

/-- 60_exceptions R271, 42_transactions R187, R188: the block calls only `flushInput`, `write` and `read`: a flush and
a write only in the step out of `BUILDING`, the flush first, and a read only in `AWAITING`. -/
def Obligations.TransportCallsComeInOrder : Prop :=
  ∀ s t : State, step s = .next t →
    t.calls = s.calls ∨
    (s.fsm = .building ∧ (t.calls = s.calls ++ [.flushInput] ∨
      ∃ f, t.calls = s.calls ++ [.flushInput, .write f] ∧ t.tx = f)) ∨
    (s.fsm = .awaiting ∧ ∃ n, s.rxExp = some n ∧ t.calls = s.calls ++ [.read n.toNat])

/-- 60_exceptions R257: the kind a transaction ends with is one its command can end with, IncorrectAddressFormat only
with one of the two contact kinds; and each kind the table marks as possible for an operation ends a step of a latched
command of it, from a state that meets the invariant. -/
def Obligations.CommandsEndWithTheKindsOfTheTable : Prop :=
  (∀ (i : Instr) (s t : State), cfgWf s.cfg = true → exec i s = .next t → resultOffered s.fsm = false →
    resultOffered t.fsm = true → canEndWith i.op t.resKind = true ∧
      (t.resKind = .incorrectAddressFormat → i.kind = .inputContact ∨ i.kind = .outputContact)) ∧
  ∀ (op : Op) (k : ResKind), canEndWith op k = true →
    ∃ (i : Instr) (s t : State), i.op = op ∧ BlockInv s ∧ s.fsm ≠ .idle ∧
      s.cmd = some ⟨i.op, i.kind, i.addr, i.len⟩ ∧ resultOffered s.fsm = false ∧
      exec i s = .next t ∧ resultOffered t.fsm = true ∧ t.resKind = k

/-- 40_address_decoder R120: a force ignores its length field: two forces that differ in it alone take the same step
from every state but `IDLE`, and from `IDLE` differ in the latched length alone. -/
def Obligations.ForcesIgnoreTheirLength : Prop :=
  ∀ (k : Kind) (addr n₁ n₂ : Word) (s : State),
    let relength := fun t : State =>
      if s.fsm = .idle ∧ (offered s).isSome then { t with cmd := t.cmd.map (fun c => { c with len := n₂ }) } else t
    exec (.forceSet k addr n₂) s = mapNext relength (exec (.forceSet k addr n₁) s) ∧
    exec (.forceClear k addr n₂) s = mapNext relength (exec (.forceClear k addr n₁) s)

/-- 43_payload_codec R226 with 40_address_decoder R122: a request may run past `max`; only its start is checked. -/
def Obligations.OnlyTheStartAddressIsRangeChecked : Prop :=
  ∀ (m : RegMap) (op : Op) (k : Kind) (addr len : Nat) (r : Resolved), isForce op = false →
    resolve m op k addr len = .ok r → (mapEntry m k).min.toNat ≤ addr ∧ addr ≤ (mapEntry m k).max.toNat ∧
    (∀ max', addr ≤ max'.toNat → ∀ m', mapEntry m' k = { mapEntry m k with max := max' } →
      resolve m' op k addr len = .ok r)
end

