-- ==== Sys2Proof/Laws/State.lean ====
section
/-! SUPPORT. One lemma per field and named update of the state, each true by definition. -/

namespace Sys2Proof.Machine

@[simp] theorem latchNoData_eq (d : DataPort) (s : State) : latchNoData d s = s := rfl

/-! ### The payload fields stop holding a value, and nothing else changes. -/

@[simp] theorem dropPayload_cfg (s : State) : (dropPayload s).cfg = s.cfg := rfl
@[simp] theorem dropPayload_fsm (s : State) : (dropPayload s).fsm = s.fsm := rfl
@[simp] theorem dropPayload_cmd (s : State) : (dropPayload s).cmd = s.cmd := rfl
@[simp] theorem dropPayload_wdataBits (s : State) : (dropPayload s).wdataBits = s.wdataBits := rfl
@[simp] theorem dropPayload_wdataWords (s : State) : (dropPayload s).wdataWords = s.wdataWords := rfl
@[simp] theorem dropPayload_raAddr (s : State) : (dropPayload s).raAddr = s.raAddr := rfl
@[simp] theorem dropPayload_raSpan (s : State) : (dropPayload s).raSpan = s.raSpan := rfl
@[simp] theorem dropPayload_tx (s : State) : (dropPayload s).tx = s.tx := rfl
@[simp] theorem dropPayload_txLen (s : State) : (dropPayload s).txLen = s.txLen := rfl
@[simp] theorem dropPayload_rx (s : State) : (dropPayload s).rx = s.rx := rfl
@[simp] theorem dropPayload_rxExp (s : State) : (dropPayload s).rxExp = s.rxExp := rfl
@[simp] theorem dropPayload_rxLen (s : State) : (dropPayload s).rxLen = s.rxLen := rfl
@[simp] theorem dropPayload_resKind (s : State) : (dropPayload s).resKind = s.resKind := rfl
@[simp] theorem dropPayload_resValid (s : State) : (dropPayload s).resValid = s.resValid := rfl
@[simp] theorem dropPayload_outBits (s : State) : (dropPayload s).outBits = [] := rfl
@[simp] theorem dropPayload_outWords (s : State) : (dropPayload s).outWords = [] := rfl
@[simp] theorem dropPayload_resets (s : State) : (dropPayload s).resets = s.resets := rfl
@[simp] theorem dropPayload_offers (s : State) : (dropPayload s).offers = s.offers := rfl
@[simp] theorem dropPayload_turns (s : State) : (dropPayload s).turns = s.turns := rfl
@[simp] theorem dropPayload_flushAnswers (s : State) : (dropPayload s).flushAnswers = s.flushAnswers := rfl
@[simp] theorem dropPayload_writeAnswers (s : State) : (dropPayload s).writeAnswers = s.writeAnswers := rfl
@[simp] theorem dropPayload_readAnswers (s : State) : (dropPayload s).readAnswers = s.readAnswers := rfl
@[simp] theorem dropPayload_takes (s : State) : (dropPayload s).takes = s.takes := rfl
@[simp] theorem dropPayload_calls (s : State) : (dropPayload s).calls = s.calls := rfl
@[simp] theorem dropPayload_delivered (s : State) : (dropPayload s).delivered = s.delivered := rfl

/-! ### The entry into a failure. -/

@[simp] theorem fail_cfg (k : ResKind) (s : State) : (fail k s).cfg = s.cfg := rfl
@[simp] theorem fail_fsm (k : ResKind) (s : State) : (fail k s).fsm = .failed := rfl
@[simp] theorem fail_cmd (k : ResKind) (s : State) : (fail k s).cmd = s.cmd := rfl
@[simp] theorem fail_wdataBits (k : ResKind) (s : State) : (fail k s).wdataBits = s.wdataBits := rfl
@[simp] theorem fail_wdataWords (k : ResKind) (s : State) : (fail k s).wdataWords = s.wdataWords := rfl
@[simp] theorem fail_raAddr (k : ResKind) (s : State) : (fail k s).raAddr = s.raAddr := rfl
@[simp] theorem fail_raSpan (k : ResKind) (s : State) : (fail k s).raSpan = s.raSpan := rfl
@[simp] theorem fail_tx (k : ResKind) (s : State) : (fail k s).tx = s.tx := rfl
@[simp] theorem fail_txLen (k : ResKind) (s : State) : (fail k s).txLen = s.txLen := rfl
@[simp] theorem fail_rx (k : ResKind) (s : State) : (fail k s).rx = s.rx := rfl
@[simp] theorem fail_rxExp (k : ResKind) (s : State) : (fail k s).rxExp = s.rxExp := rfl
@[simp] theorem fail_rxLen (k : ResKind) (s : State) : (fail k s).rxLen = s.rxLen := rfl
@[simp] theorem fail_resKind (k : ResKind) (s : State) : (fail k s).resKind = k := rfl
@[simp] theorem fail_resValid (k : ResKind) (s : State) : (fail k s).resValid = true := rfl
@[simp] theorem fail_outBits (k : ResKind) (s : State) : (fail k s).outBits = [] := rfl
@[simp] theorem fail_outWords (k : ResKind) (s : State) : (fail k s).outWords = [] := rfl
@[simp] theorem fail_resets (k : ResKind) (s : State) : (fail k s).resets = s.resets := rfl
@[simp] theorem fail_offers (k : ResKind) (s : State) : (fail k s).offers = s.offers := rfl
@[simp] theorem fail_turns (k : ResKind) (s : State) : (fail k s).turns = s.turns := rfl
@[simp] theorem fail_flushAnswers (k : ResKind) (s : State) : (fail k s).flushAnswers = s.flushAnswers := rfl
@[simp] theorem fail_writeAnswers (k : ResKind) (s : State) : (fail k s).writeAnswers = s.writeAnswers := rfl
@[simp] theorem fail_readAnswers (k : ResKind) (s : State) : (fail k s).readAnswers = s.readAnswers := rfl
@[simp] theorem fail_takes (k : ResKind) (s : State) : (fail k s).takes = s.takes := rfl
@[simp] theorem fail_calls (k : ResKind) (s : State) : (fail k s).calls = s.calls := rfl
@[simp] theorem fail_delivered (k : ResKind) (s : State) : (fail k s).delivered = s.delivered := rfl

/-! ### The entry into `SUCCESS`. -/

@[simp] theorem succeed_cfg (s : State) : (succeed s).cfg = s.cfg := rfl
@[simp] theorem succeed_fsm (s : State) : (succeed s).fsm = .success := rfl
@[simp] theorem succeed_cmd (s : State) : (succeed s).cmd = s.cmd := rfl
@[simp] theorem succeed_wdataBits (s : State) : (succeed s).wdataBits = s.wdataBits := rfl
@[simp] theorem succeed_wdataWords (s : State) : (succeed s).wdataWords = s.wdataWords := rfl
@[simp] theorem succeed_raAddr (s : State) : (succeed s).raAddr = s.raAddr := rfl
@[simp] theorem succeed_raSpan (s : State) : (succeed s).raSpan = s.raSpan := rfl
@[simp] theorem succeed_tx (s : State) : (succeed s).tx = s.tx := rfl
@[simp] theorem succeed_txLen (s : State) : (succeed s).txLen = s.txLen := rfl
@[simp] theorem succeed_rx (s : State) : (succeed s).rx = s.rx := rfl
@[simp] theorem succeed_rxExp (s : State) : (succeed s).rxExp = s.rxExp := rfl
@[simp] theorem succeed_rxLen (s : State) : (succeed s).rxLen = s.rxLen := rfl
@[simp] theorem succeed_resKind (s : State) : (succeed s).resKind = .success := rfl
@[simp] theorem succeed_resValid (s : State) : (succeed s).resValid = true := rfl
@[simp] theorem succeed_outBits (s : State) : (succeed s).outBits = s.outBits := rfl
@[simp] theorem succeed_outWords (s : State) : (succeed s).outWords = s.outWords := rfl
@[simp] theorem succeed_resets (s : State) : (succeed s).resets = s.resets := rfl
@[simp] theorem succeed_offers (s : State) : (succeed s).offers = s.offers := rfl
@[simp] theorem succeed_turns (s : State) : (succeed s).turns = s.turns := rfl
@[simp] theorem succeed_flushAnswers (s : State) : (succeed s).flushAnswers = s.flushAnswers := rfl
@[simp] theorem succeed_writeAnswers (s : State) : (succeed s).writeAnswers = s.writeAnswers := rfl
@[simp] theorem succeed_readAnswers (s : State) : (succeed s).readAnswers = s.readAnswers := rfl
@[simp] theorem succeed_takes (s : State) : (succeed s).takes = s.takes := rfl
@[simp] theorem succeed_calls (s : State) : (succeed s).calls = s.calls := rfl
@[simp] theorem succeed_delivered (s : State) : (succeed s).delivered = s.delivered := rfl

/-! ### Reset of the block. -/

@[simp] theorem resetBlock_cfg (s : State) : (resetBlock s).cfg = s.cfg := rfl
@[simp] theorem resetBlock_fsm (s : State) : (resetBlock s).fsm = .idle := rfl
@[simp] theorem resetBlock_cmd (s : State) : (resetBlock s).cmd = none := rfl
@[simp] theorem resetBlock_wdataBits (s : State) : (resetBlock s).wdataBits = [] := rfl
@[simp] theorem resetBlock_wdataWords (s : State) : (resetBlock s).wdataWords = [] := rfl
@[simp] theorem resetBlock_raAddr (s : State) : (resetBlock s).raAddr = none := rfl
@[simp] theorem resetBlock_raSpan (s : State) : (resetBlock s).raSpan = none := rfl
@[simp] theorem resetBlock_tx (s : State) : (resetBlock s).tx = [] := rfl
@[simp] theorem resetBlock_txLen (s : State) : (resetBlock s).txLen = none := rfl
@[simp] theorem resetBlock_rx (s : State) : (resetBlock s).rx = [] := rfl
@[simp] theorem resetBlock_rxExp (s : State) : (resetBlock s).rxExp = none := rfl
@[simp] theorem resetBlock_rxLen (s : State) : (resetBlock s).rxLen = none := rfl
@[simp] theorem resetBlock_resKind (s : State) : (resetBlock s).resKind = .inProgress := rfl
@[simp] theorem resetBlock_resValid (s : State) : (resetBlock s).resValid = false := rfl
@[simp] theorem resetBlock_outBits (s : State) : (resetBlock s).outBits = [] := rfl
@[simp] theorem resetBlock_outWords (s : State) : (resetBlock s).outWords = [] := rfl
@[simp] theorem resetBlock_resets (s : State) : (resetBlock s).resets = s.resets := rfl
@[simp] theorem resetBlock_offers (s : State) : (resetBlock s).offers = s.offers := rfl
@[simp] theorem resetBlock_turns (s : State) : (resetBlock s).turns = s.turns := rfl
@[simp] theorem resetBlock_flushAnswers (s : State) : (resetBlock s).flushAnswers = s.flushAnswers := rfl
@[simp] theorem resetBlock_writeAnswers (s : State) : (resetBlock s).writeAnswers = s.writeAnswers := rfl
@[simp] theorem resetBlock_readAnswers (s : State) : (resetBlock s).readAnswers = s.readAnswers := rfl
@[simp] theorem resetBlock_takes (s : State) : (resetBlock s).takes = s.takes := rfl
@[simp] theorem resetBlock_calls (s : State) : (resetBlock s).calls = s.calls := rfl
@[simp] theorem resetBlock_delivered (s : State) : (resetBlock s).delivered = s.delivered := rfl

/-! ### The reset input is sampled. -/

@[simp] theorem sampled_cfg (s : State) : (sampled s).cfg = s.cfg := rfl
@[simp] theorem sampled_fsm (s : State) : (sampled s).fsm = s.fsm := rfl
@[simp] theorem sampled_cmd (s : State) : (sampled s).cmd = s.cmd := rfl
@[simp] theorem sampled_wdataBits (s : State) : (sampled s).wdataBits = s.wdataBits := rfl
@[simp] theorem sampled_wdataWords (s : State) : (sampled s).wdataWords = s.wdataWords := rfl
@[simp] theorem sampled_raAddr (s : State) : (sampled s).raAddr = s.raAddr := rfl
@[simp] theorem sampled_raSpan (s : State) : (sampled s).raSpan = s.raSpan := rfl
@[simp] theorem sampled_tx (s : State) : (sampled s).tx = s.tx := rfl
@[simp] theorem sampled_txLen (s : State) : (sampled s).txLen = s.txLen := rfl
@[simp] theorem sampled_rx (s : State) : (sampled s).rx = s.rx := rfl
@[simp] theorem sampled_rxExp (s : State) : (sampled s).rxExp = s.rxExp := rfl
@[simp] theorem sampled_rxLen (s : State) : (sampled s).rxLen = s.rxLen := rfl
@[simp] theorem sampled_resKind (s : State) : (sampled s).resKind = s.resKind := rfl
@[simp] theorem sampled_resValid (s : State) : (sampled s).resValid = s.resValid := rfl
@[simp] theorem sampled_outBits (s : State) : (sampled s).outBits = s.outBits := rfl
@[simp] theorem sampled_outWords (s : State) : (sampled s).outWords = s.outWords := rfl
@[simp] theorem sampled_resets (s : State) : (sampled s).resets = s.resets.tail := rfl
@[simp] theorem sampled_offers (s : State) : (sampled s).offers = s.offers := rfl
@[simp] theorem sampled_turns (s : State) : (sampled s).turns = s.turns := rfl
@[simp] theorem sampled_flushAnswers (s : State) : (sampled s).flushAnswers = s.flushAnswers := rfl
@[simp] theorem sampled_writeAnswers (s : State) : (sampled s).writeAnswers = s.writeAnswers := rfl
@[simp] theorem sampled_readAnswers (s : State) : (sampled s).readAnswers = s.readAnswers := rfl
@[simp] theorem sampled_takes (s : State) : (sampled s).takes = s.takes := rfl
@[simp] theorem sampled_calls (s : State) : (sampled s).calls = s.calls := rfl
@[simp] theorem sampled_delivered (s : State) : (sampled s).delivered = s.delivered := rfl

/-! ### The command served next leaves the port. -/

@[simp] theorem takeOffer_cfg (s : State) : (takeOffer s).cfg = s.cfg := rfl
@[simp] theorem takeOffer_fsm (s : State) : (takeOffer s).fsm = s.fsm := rfl
@[simp] theorem takeOffer_cmd (s : State) : (takeOffer s).cmd = s.cmd := rfl
@[simp] theorem takeOffer_wdataBits (s : State) : (takeOffer s).wdataBits = s.wdataBits := rfl
@[simp] theorem takeOffer_wdataWords (s : State) : (takeOffer s).wdataWords = s.wdataWords := rfl
@[simp] theorem takeOffer_raAddr (s : State) : (takeOffer s).raAddr = s.raAddr := rfl
@[simp] theorem takeOffer_raSpan (s : State) : (takeOffer s).raSpan = s.raSpan := rfl
@[simp] theorem takeOffer_tx (s : State) : (takeOffer s).tx = s.tx := rfl
@[simp] theorem takeOffer_txLen (s : State) : (takeOffer s).txLen = s.txLen := rfl
@[simp] theorem takeOffer_rx (s : State) : (takeOffer s).rx = s.rx := rfl
@[simp] theorem takeOffer_rxExp (s : State) : (takeOffer s).rxExp = s.rxExp := rfl
@[simp] theorem takeOffer_rxLen (s : State) : (takeOffer s).rxLen = s.rxLen := rfl
@[simp] theorem takeOffer_resKind (s : State) : (takeOffer s).resKind = s.resKind := rfl
@[simp] theorem takeOffer_resValid (s : State) : (takeOffer s).resValid = s.resValid := rfl
@[simp] theorem takeOffer_outBits (s : State) : (takeOffer s).outBits = s.outBits := rfl
@[simp] theorem takeOffer_outWords (s : State) : (takeOffer s).outWords = s.outWords := rfl
@[simp] theorem takeOffer_resets (s : State) : (takeOffer s).resets = s.resets := rfl
@[simp] theorem takeOffer_offers (s : State) : (takeOffer s).offers = s.offers.eraseIdx (offerIndex s) := rfl
@[simp] theorem takeOffer_turns (s : State) : (takeOffer s).turns = s.turns.tail := rfl
@[simp] theorem takeOffer_flushAnswers (s : State) : (takeOffer s).flushAnswers = s.flushAnswers := rfl
@[simp] theorem takeOffer_writeAnswers (s : State) : (takeOffer s).writeAnswers = s.writeAnswers := rfl
@[simp] theorem takeOffer_readAnswers (s : State) : (takeOffer s).readAnswers = s.readAnswers := rfl
@[simp] theorem takeOffer_takes (s : State) : (takeOffer s).takes = s.takes := rfl
@[simp] theorem takeOffer_calls (s : State) : (takeOffer s).calls = s.calls := rfl
@[simp] theorem takeOffer_delivered (s : State) : (takeOffer s).delivered = s.delivered := rfl

/-! ### The bits of a WRITE_BITS are latched. -/

@[simp] theorem latchBits_cfg (n : Word) (d : DataPort) (s : State) : (latchBits n d s).cfg = s.cfg := rfl
@[simp] theorem latchBits_fsm (n : Word) (d : DataPort) (s : State) : (latchBits n d s).fsm = s.fsm := rfl
@[simp] theorem latchBits_cmd (n : Word) (d : DataPort) (s : State) : (latchBits n d s).cmd = s.cmd := rfl
@[simp] theorem latchBits_wdataBits (n : Word) (d : DataPort) (s : State) : (latchBits n d s).wdataBits = portBits d n.toNat := rfl
@[simp] theorem latchBits_wdataWords (n : Word) (d : DataPort) (s : State) : (latchBits n d s).wdataWords = s.wdataWords := rfl
@[simp] theorem latchBits_raAddr (n : Word) (d : DataPort) (s : State) : (latchBits n d s).raAddr = s.raAddr := rfl
@[simp] theorem latchBits_raSpan (n : Word) (d : DataPort) (s : State) : (latchBits n d s).raSpan = s.raSpan := rfl
@[simp] theorem latchBits_tx (n : Word) (d : DataPort) (s : State) : (latchBits n d s).tx = s.tx := rfl
@[simp] theorem latchBits_txLen (n : Word) (d : DataPort) (s : State) : (latchBits n d s).txLen = s.txLen := rfl
@[simp] theorem latchBits_rx (n : Word) (d : DataPort) (s : State) : (latchBits n d s).rx = s.rx := rfl
@[simp] theorem latchBits_rxExp (n : Word) (d : DataPort) (s : State) : (latchBits n d s).rxExp = s.rxExp := rfl
@[simp] theorem latchBits_rxLen (n : Word) (d : DataPort) (s : State) : (latchBits n d s).rxLen = s.rxLen := rfl
@[simp] theorem latchBits_resKind (n : Word) (d : DataPort) (s : State) : (latchBits n d s).resKind = s.resKind := rfl
@[simp] theorem latchBits_resValid (n : Word) (d : DataPort) (s : State) : (latchBits n d s).resValid = s.resValid := rfl
@[simp] theorem latchBits_outBits (n : Word) (d : DataPort) (s : State) : (latchBits n d s).outBits = s.outBits := rfl
@[simp] theorem latchBits_outWords (n : Word) (d : DataPort) (s : State) : (latchBits n d s).outWords = s.outWords := rfl
@[simp] theorem latchBits_resets (n : Word) (d : DataPort) (s : State) : (latchBits n d s).resets = s.resets := rfl
@[simp] theorem latchBits_offers (n : Word) (d : DataPort) (s : State) : (latchBits n d s).offers = s.offers := rfl
@[simp] theorem latchBits_turns (n : Word) (d : DataPort) (s : State) : (latchBits n d s).turns = s.turns := rfl
@[simp] theorem latchBits_flushAnswers (n : Word) (d : DataPort) (s : State) : (latchBits n d s).flushAnswers = s.flushAnswers := rfl
@[simp] theorem latchBits_writeAnswers (n : Word) (d : DataPort) (s : State) : (latchBits n d s).writeAnswers = s.writeAnswers := rfl
@[simp] theorem latchBits_readAnswers (n : Word) (d : DataPort) (s : State) : (latchBits n d s).readAnswers = s.readAnswers := rfl
@[simp] theorem latchBits_takes (n : Word) (d : DataPort) (s : State) : (latchBits n d s).takes = s.takes := rfl
@[simp] theorem latchBits_calls (n : Word) (d : DataPort) (s : State) : (latchBits n d s).calls = s.calls := rfl
@[simp] theorem latchBits_delivered (n : Word) (d : DataPort) (s : State) : (latchBits n d s).delivered = s.delivered := rfl

/-! ### The words of a WRITE_W16 are latched. -/

@[simp] theorem latchWords_cfg (n : Word) (d : DataPort) (s : State) : (latchWords n d s).cfg = s.cfg := rfl
@[simp] theorem latchWords_fsm (n : Word) (d : DataPort) (s : State) : (latchWords n d s).fsm = s.fsm := rfl
@[simp] theorem latchWords_cmd (n : Word) (d : DataPort) (s : State) : (latchWords n d s).cmd = s.cmd := rfl
@[simp] theorem latchWords_wdataBits (n : Word) (d : DataPort) (s : State) : (latchWords n d s).wdataBits = s.wdataBits := rfl
@[simp] theorem latchWords_wdataWords (n : Word) (d : DataPort) (s : State) : (latchWords n d s).wdataWords = portWords d n.toNat := rfl
@[simp] theorem latchWords_raAddr (n : Word) (d : DataPort) (s : State) : (latchWords n d s).raAddr = s.raAddr := rfl
@[simp] theorem latchWords_raSpan (n : Word) (d : DataPort) (s : State) : (latchWords n d s).raSpan = s.raSpan := rfl
@[simp] theorem latchWords_tx (n : Word) (d : DataPort) (s : State) : (latchWords n d s).tx = s.tx := rfl
@[simp] theorem latchWords_txLen (n : Word) (d : DataPort) (s : State) : (latchWords n d s).txLen = s.txLen := rfl
@[simp] theorem latchWords_rx (n : Word) (d : DataPort) (s : State) : (latchWords n d s).rx = s.rx := rfl
@[simp] theorem latchWords_rxExp (n : Word) (d : DataPort) (s : State) : (latchWords n d s).rxExp = s.rxExp := rfl
@[simp] theorem latchWords_rxLen (n : Word) (d : DataPort) (s : State) : (latchWords n d s).rxLen = s.rxLen := rfl
@[simp] theorem latchWords_resKind (n : Word) (d : DataPort) (s : State) : (latchWords n d s).resKind = s.resKind := rfl
@[simp] theorem latchWords_resValid (n : Word) (d : DataPort) (s : State) : (latchWords n d s).resValid = s.resValid := rfl
@[simp] theorem latchWords_outBits (n : Word) (d : DataPort) (s : State) : (latchWords n d s).outBits = s.outBits := rfl
@[simp] theorem latchWords_outWords (n : Word) (d : DataPort) (s : State) : (latchWords n d s).outWords = s.outWords := rfl
@[simp] theorem latchWords_resets (n : Word) (d : DataPort) (s : State) : (latchWords n d s).resets = s.resets := rfl
@[simp] theorem latchWords_offers (n : Word) (d : DataPort) (s : State) : (latchWords n d s).offers = s.offers := rfl
@[simp] theorem latchWords_turns (n : Word) (d : DataPort) (s : State) : (latchWords n d s).turns = s.turns := rfl
@[simp] theorem latchWords_flushAnswers (n : Word) (d : DataPort) (s : State) : (latchWords n d s).flushAnswers = s.flushAnswers := rfl
@[simp] theorem latchWords_writeAnswers (n : Word) (d : DataPort) (s : State) : (latchWords n d s).writeAnswers = s.writeAnswers := rfl
@[simp] theorem latchWords_readAnswers (n : Word) (d : DataPort) (s : State) : (latchWords n d s).readAnswers = s.readAnswers := rfl
@[simp] theorem latchWords_takes (n : Word) (d : DataPort) (s : State) : (latchWords n d s).takes = s.takes := rfl
@[simp] theorem latchWords_calls (n : Word) (d : DataPort) (s : State) : (latchWords n d s).calls = s.calls := rfl
@[simp] theorem latchWords_delivered (n : Word) (d : DataPort) (s : State) : (latchWords n d s).delivered = s.delivered := rfl

/-! ### A command word is placed at the port. -/

@[simp] theorem placeCommand_cfg (w : CmdWord) (s : State) : (placeCommand w s).cfg = s.cfg := rfl
@[simp] theorem placeCommand_fsm (w : CmdWord) (s : State) : (placeCommand w s).fsm = .idle := rfl
@[simp] theorem placeCommand_cmd (w : CmdWord) (s : State) : (placeCommand w s).cmd = s.cmd := rfl
@[simp] theorem placeCommand_wdataBits (w : CmdWord) (s : State) : (placeCommand w s).wdataBits = s.wdataBits := rfl
@[simp] theorem placeCommand_wdataWords (w : CmdWord) (s : State) : (placeCommand w s).wdataWords = s.wdataWords := rfl
@[simp] theorem placeCommand_raAddr (w : CmdWord) (s : State) : (placeCommand w s).raAddr = s.raAddr := rfl
@[simp] theorem placeCommand_raSpan (w : CmdWord) (s : State) : (placeCommand w s).raSpan = s.raSpan := rfl
@[simp] theorem placeCommand_tx (w : CmdWord) (s : State) : (placeCommand w s).tx = s.tx := rfl
@[simp] theorem placeCommand_txLen (w : CmdWord) (s : State) : (placeCommand w s).txLen = s.txLen := rfl
@[simp] theorem placeCommand_rx (w : CmdWord) (s : State) : (placeCommand w s).rx = s.rx := rfl
@[simp] theorem placeCommand_rxExp (w : CmdWord) (s : State) : (placeCommand w s).rxExp = s.rxExp := rfl
@[simp] theorem placeCommand_rxLen (w : CmdWord) (s : State) : (placeCommand w s).rxLen = s.rxLen := rfl
@[simp] theorem placeCommand_resKind (w : CmdWord) (s : State) : (placeCommand w s).resKind = s.resKind := rfl
@[simp] theorem placeCommand_resValid (w : CmdWord) (s : State) : (placeCommand w s).resValid = false := rfl
@[simp] theorem placeCommand_outBits (w : CmdWord) (s : State) : (placeCommand w s).outBits = s.outBits := rfl
@[simp] theorem placeCommand_outWords (w : CmdWord) (s : State) : (placeCommand w s).outWords = s.outWords := rfl
@[simp] theorem placeCommand_resets (w : CmdWord) (s : State) : (placeCommand w s).resets = [] := rfl
@[simp] theorem placeCommand_offers (w : CmdWord) (s : State) : (placeCommand w s).offers = [⟨w, 0⟩] := rfl
@[simp] theorem placeCommand_turns (w : CmdWord) (s : State) : (placeCommand w s).turns = [] := rfl
@[simp] theorem placeCommand_flushAnswers (w : CmdWord) (s : State) : (placeCommand w s).flushAnswers = s.flushAnswers := rfl
@[simp] theorem placeCommand_writeAnswers (w : CmdWord) (s : State) : (placeCommand w s).writeAnswers = s.writeAnswers := rfl
@[simp] theorem placeCommand_readAnswers (w : CmdWord) (s : State) : (placeCommand w s).readAnswers = s.readAnswers := rfl
@[simp] theorem placeCommand_takes (w : CmdWord) (s : State) : (placeCommand w s).takes = s.takes := rfl
@[simp] theorem placeCommand_calls (w : CmdWord) (s : State) : (placeCommand w s).calls = s.calls := rfl
@[simp] theorem placeCommand_delivered (w : CmdWord) (s : State) : (placeCommand w s).delivered = s.delivered := rfl

/-! ### Other commands stand at the port. -/

@[simp] theorem withPort_cfg (os : List Offer) (ts : List Nat) (s : State) : (withPort os ts s).cfg = s.cfg := rfl
@[simp] theorem withPort_fsm (os : List Offer) (ts : List Nat) (s : State) : (withPort os ts s).fsm = s.fsm := rfl
@[simp] theorem withPort_cmd (os : List Offer) (ts : List Nat) (s : State) : (withPort os ts s).cmd = s.cmd := rfl
@[simp] theorem withPort_wdataBits (os : List Offer) (ts : List Nat) (s : State) : (withPort os ts s).wdataBits = s.wdataBits := rfl
@[simp] theorem withPort_wdataWords (os : List Offer) (ts : List Nat) (s : State) : (withPort os ts s).wdataWords = s.wdataWords := rfl
@[simp] theorem withPort_raAddr (os : List Offer) (ts : List Nat) (s : State) : (withPort os ts s).raAddr = s.raAddr := rfl
@[simp] theorem withPort_raSpan (os : List Offer) (ts : List Nat) (s : State) : (withPort os ts s).raSpan = s.raSpan := rfl
@[simp] theorem withPort_tx (os : List Offer) (ts : List Nat) (s : State) : (withPort os ts s).tx = s.tx := rfl
@[simp] theorem withPort_txLen (os : List Offer) (ts : List Nat) (s : State) : (withPort os ts s).txLen = s.txLen := rfl
@[simp] theorem withPort_rx (os : List Offer) (ts : List Nat) (s : State) : (withPort os ts s).rx = s.rx := rfl
@[simp] theorem withPort_rxExp (os : List Offer) (ts : List Nat) (s : State) : (withPort os ts s).rxExp = s.rxExp := rfl
@[simp] theorem withPort_rxLen (os : List Offer) (ts : List Nat) (s : State) : (withPort os ts s).rxLen = s.rxLen := rfl
@[simp] theorem withPort_resKind (os : List Offer) (ts : List Nat) (s : State) : (withPort os ts s).resKind = s.resKind := rfl
@[simp] theorem withPort_resValid (os : List Offer) (ts : List Nat) (s : State) : (withPort os ts s).resValid = s.resValid := rfl
@[simp] theorem withPort_outBits (os : List Offer) (ts : List Nat) (s : State) : (withPort os ts s).outBits = s.outBits := rfl
@[simp] theorem withPort_outWords (os : List Offer) (ts : List Nat) (s : State) : (withPort os ts s).outWords = s.outWords := rfl
@[simp] theorem withPort_resets (os : List Offer) (ts : List Nat) (s : State) : (withPort os ts s).resets = s.resets := rfl
@[simp] theorem withPort_offers (os : List Offer) (ts : List Nat) (s : State) : (withPort os ts s).offers = os := rfl
@[simp] theorem withPort_turns (os : List Offer) (ts : List Nat) (s : State) : (withPort os ts s).turns = ts := rfl
@[simp] theorem withPort_flushAnswers (os : List Offer) (ts : List Nat) (s : State) : (withPort os ts s).flushAnswers = s.flushAnswers := rfl
@[simp] theorem withPort_writeAnswers (os : List Offer) (ts : List Nat) (s : State) : (withPort os ts s).writeAnswers = s.writeAnswers := rfl
@[simp] theorem withPort_readAnswers (os : List Offer) (ts : List Nat) (s : State) : (withPort os ts s).readAnswers = s.readAnswers := rfl
@[simp] theorem withPort_takes (os : List Offer) (ts : List Nat) (s : State) : (withPort os ts s).takes = s.takes := rfl
@[simp] theorem withPort_calls (os : List Offer) (ts : List Nat) (s : State) : (withPort os ts s).calls = s.calls := rfl
@[simp] theorem withPort_delivered (os : List Offer) (ts : List Nat) (s : State) : (withPort os ts s).delivered = s.delivered := rfl

end Sys2Proof.Machine
end

