-- ==== Sys2Proof/Laws/Codec.lean ====
section
/-! SUPPORT. Small facts of the ASCII-hex codec and the checksum calculator. -/

namespace Sys2Proof.Machine

/-! ### Lengths -/

@[simp] theorem hex2_length (b : Byte) : (hex2 b).length = 2 := rfl

@[simp] theorem hex4_length (d : Word) : (hex4 d).length = 4 := rfl

@[simp] theorem hex4Force_length (d : Word) : (hex4Force d).length = 4 := rfl

@[simp] theorem hexs_nil : hexs [] = [] := rfl

@[simp] theorem hexs_cons (b : Byte) (s : List Byte) : hexs (b :: s) = hex2 b ++ hexs s := rfl

theorem hexs_append (s t : List Byte) : hexs (s ++ t) = hexs s ++ hexs t := by simp [hexs]

@[simp] theorem hexs_length (s : List Byte) : (hexs s).length = 2 * s.length := by
  induction s with
  | nil => rfl
  | cons b s ih => simp [ih]; omega

@[simp] theorem mkframe_length (body : List Byte) : (mkframe body).length = body.length + 3 := by
  simp [mkframe]

/-! ### Digits and pairs -/

theorem unhexchar_hexchar (lower : Bool) (v : BitVec 4) : unhexchar lower (hexchar v) = some v := by
  revert lower v; decide

theorem nibbles_toNat (b : Byte) :
    16 * (b.extractLsb' 4 4).toNat + (b.extractLsb' 0 4).toNat = b.toNat := by
  simp only [BitVec.extractLsb'_toNat, Nat.shiftRight_eq_div_pow]
  omega

theorem unhex2_hex2 (lower : Bool) (b : Byte) :
    unhex2 lower (hexchar (b.extractLsb' 4 4)) (hexchar (b.extractLsb' 0 4)) = some b := by
  simp only [unhex2, unhexchar_hexchar, nibbles_toNat, BitVec.ofNat_toNat, BitVec.setWidth_eq]

theorem unhexs_hex2_append (lower : Bool) (b : Byte) (t : List Byte) :
    unhexs lower (hex2 b ++ t) = (unhexs lower t).map (b :: ·) := by
  simp only [hex2, List.cons_append, List.nil_append, unhexs, unhex2_hex2]
  cases unhexs lower t <;> rfl

/-- What a decode that is not `BAD` says of its first pair and of the rest. -/
theorem unhexs_cons_cons {lower : Bool} {c1 c2 : Byte} {t s : List Byte}
    (h : unhexs lower (c1 :: c2 :: t) = some s) :
    ∃ b rest, unhex2 lower c1 c2 = some b ∧ unhexs lower t = some rest ∧ s = b :: rest := by
  simp only [unhexs] at h
  split at h
  · rename_i b rest hb hr
    exact ⟨b, rest, hb, hr, by simpa using h.symm⟩
  · simp at h

/-- A decode that is not `BAD` gives one byte for two characters. -/
theorem unhexs_length {lower : Bool} :
    ∀ {t s : List Byte}, unhexs lower t = some s → t.length = 2 * s.length
  | [], s, h => by simp [unhexs] at h; simp [h]
  | [_], s, h => by simp [unhexs] at h
  | c1 :: c2 :: t, s, h => by
    obtain ⟨b, rest, -, hr, rfl⟩ := unhexs_cons_cons h
    have := unhexs_length hr
    simp only [List.length_cons]; omega

/-! ### Checksum -/

@[simp] theorem sum8_nil : sum8 [] = 0 := rfl

@[simp] theorem sum8_cons (b : Byte) (s : List Byte) : sum8 (b :: s) = b + sum8 s := rfl

theorem sum8_append (s t : List Byte) : sum8 (s ++ t) = sum8 s + sum8 t := by
  induction s with
  | nil => simp
  | cons b s ih => simp [ih, BitVec.add_assoc]

/-! ### The parts of a response -/

/-- The three parts of a response that ends in a marker and two checksum characters. -/
theorem response_parts (a m f1 f2 : Byte) (d : List Byte) :
    let r := a :: d ++ [m, f1, f2]
    checkedSpan r = d ++ [m] ∧ checksumField r = [f1, f2] ∧ dataChars r = d ∧ r[0]? = some a ∧
      r[r.length - 3]? = some m := by
  have hlen : (a :: d ++ [m, f1, f2]).length = d.length + 4 := by simp
  refine ⟨?_, ?_, ?_, by simp, ?_⟩
  · simp only [checkedSpan, hlen]
    have : d.length + 4 - 3 = d.length + 1 := by omega
    rw [this]
    simp [List.take_append]
  · simp only [checksumField, hlen]
    have : d.length + 4 - 2 = d.length + 2 := by omega
    rw [this]
    simp [List.drop_append]
  · simp only [dataChars, hlen]
    simp
  · rw [hlen]
    have : d.length + 4 - 3 = d.length + 1 := by omega
    rw [this]
    simp

/-- What a response that passes its checks gave: its payload bytes, decoded from its data characters. -/
theorem checkResponse_ok {c : Cfg} {r p : List Byte} (h : checkResponse c r = .ok p) :
    csMatch c.checksumMatch r = true ∧ (c.checkMarkers = true → markersOk r = true) ∧
      unhexs c.hexAcceptLower (dataChars r) = some p := by
  unfold checkResponse at h
  split at h
  · simp at h
  · split at h
    · simp at h
    · split at h
      · simp at h
      · rename_i h1 h2 _ q hq
        simp only [Except.ok.injEq] at h
        subst h
        simp_all

/-- A response that passes the three checks gives the bytes its data characters decode to. -/
theorem checkResponse_eq_ok {c : Cfg} {r p : List Byte} (hs : csMatch c.checksumMatch r = true)
    (hm : c.checkMarkers = true → markersOk r = true) (hd : unhexs c.hexAcceptLower (dataChars r) = some p) :
    checkResponse c r = .ok p := by
  cases hc : c.checkMarkers <;> simp_all [checkResponse]

/-- Which kinds a response can fail with. -/
theorem checkResponse_error {c : Cfg} {r : List Byte} {k : ResKind} (h : checkResponse c r = .error k) :
    k = .checksumMismatch ∨ k = .malformedResponse := by
  unfold checkResponse at h
  split at h
  · simp_all
  · split at h
    · simp_all
    · split at h <;> simp_all

/-- The payload of a response has one byte for two data characters. -/
theorem checkResponse_length {c : Cfg} {r p : List Byte} (h : checkResponse c r = .ok p) (h4 : 4 ≤ r.length) :
    r.length = 4 + 2 * p.length := by
  have h1 := unhexs_length (checkResponse_ok h).2.2
  simp [dataChars] at h1
  omega

end Sys2Proof.Machine
end

