-- ==== Sys2Proof/Laws/Decoder.lean ====
section
/-! SUPPORT. What the decoder functions answer, said once (40_address_decoder R111 to R127). -/

namespace Sys2Proof.Machine

/-- An address that steps 1 to 4 pass. -/
theorem linearOf_ok {k : Kind} {e : MapEntry} {a lin : Nat} (h : linearOf k e a = .ok lin) :
    a % 10 ≤ e.nbase - 1 ∧ e.min.toNat ≤ a ∧ a ≤ e.max.toNat ∧ lin = linearise k (a - e.min.toNat) := by
  unfold linearOf at h
  split at h
  · simp at h
  · split at h
    · simp at h
    · simp only [Decoded.ok.injEq] at h
      omega

/-- Steps 1 to 4 pass an address that meets the two checks. -/
theorem linearOf_eq_ok {k : Kind} {e : MapEntry} {a : Nat} (hd : a % 10 ≤ e.nbase - 1) (h1 : e.min.toNat ≤ a)
    (h2 : a ≤ e.max.toNat) : linearOf k e a = .ok (linearise k (a - e.min.toNat)) := by
  unfold linearOf
  rw [if_neg (by omega), if_neg (by omega)]

/-- The kinds steps 1 to 4 can fail with. -/
theorem linearOf_fail {k : Kind} {e : MapEntry} {a : Nat} {f : ResKind} (h : linearOf k e a = .fail f) :
    (f = .incorrectAddressFormat ∧ a % 10 > e.nbase - 1) ∨
      (f = .addressOutOfRange ∧ a % 10 ≤ e.nbase - 1 ∧ (a < e.min.toNat ∨ a > e.max.toNat)) := by
  unfold linearOf at h
  split at h
  · simp only [Decoded.fail.injEq] at h
    exact .inl ⟨h.symm, by assumption⟩
  · split at h
    · simp only [Decoded.fail.injEq] at h
      exact .inr ⟨h.symm, by omega, by assumption⟩
    · simp at h

/-- Steps 1 to 4 refuse nothing. -/
theorem linearOf_ne_refuse (k : Kind) (e : MapEntry) (a : Nat) (r : Refusal) : linearOf k e a ≠ .refuse r := by
  unfold linearOf
  split
  · simp
  · split <;> simp

/-- A span that step 6 and the alignment check pass. -/
theorem checkSpan_ok {op : Op} {r t : Resolved} (h : checkSpan op r = .ok t) :
    t = r ∧ r.bc ≤ 64 ∧ (op = .writeBits → r.lin % 8 = 0) := by
  unfold checkSpan maxBytes at h
  split at h
  · simp at h
  · split at h
    · simp at h
    · simp only [Decoded.ok.injEq] at h
      refine ⟨h.symm, by omega, fun hw => ?_⟩
      rename_i h2
      simp only [hw, true_and] at h2
      omega

/-- The kinds step 6 and the alignment check can fail with. -/
theorem checkSpan_fail {op : Op} {r : Resolved} {f : ResKind} (h : checkSpan op r = .fail f) :
    (f = .tooManyBytes ∧ r.bc > 64) ∨ (f = .addressMisaligned ∧ op = .writeBits ∧ r.bc ≤ 64 ∧ r.lin % 8 ≠ 0) := by
  unfold checkSpan maxBytes at h
  split at h
  · simp only [Decoded.fail.injEq] at h
    exact .inl ⟨h.symm, by assumption⟩
  · split at h
    · simp only [Decoded.fail.injEq] at h
      rename_i h1 h2
      exact .inr ⟨h.symm, h2.1, by omega, h2.2⟩
    · simp at h

/-- Step 6 and the alignment check refuse nothing. -/
theorem checkSpan_ne_refuse (op : Op) (r : Resolved) (x : Refusal) : checkSpan op r ≠ .refuse x := by
  unfold checkSpan
  split
  · simp
  · split <;> simp

@[simp] theorem span_lin (k : Kind) (e : MapEntry) (lin len : Nat) : (span k e lin len).lin = lin := by
  unfold span
  split <;> rfl

/-- A command names at least one byte. -/
theorem span_bc_pos (k : Kind) (e : MapEntry) (lin len : Nat) : 1 ≤ (span k e lin len).bc := by
  unfold span
  split <;> exact Nat.le_add_left ..

/-- A command the decoder passes. -/
theorem resolve_ok {m : RegMap} {op : Op} {k : Kind} {a n : Nat} {r : Resolved} (h : resolve m op k a n = .ok r) :
    n ≠ 0 ∧ admits op k = true ∧ (∃ lin, linearOf k (mapEntry m k) a = .ok lin ∧ r = span k (mapEntry m k) lin n) ∧
      1 ≤ r.bc ∧ r.bc ≤ 64 ∧ (op = .writeBits → r.lin % 8 = 0) := by
  unfold resolve at h
  split at h
  · simp at h
  · split at h
    · simp at h
    · split at h
      · rename_i h0 ha _ lin hl
        obtain ⟨rfl, hbc, hw⟩ := checkSpan_ok h
        exact ⟨h0, by simpa using ha, ⟨lin, hl, rfl⟩, span_bc_pos .., hbc, hw⟩
      · simp at h
      · simp at h

/-- A command the decoder fails: one of the five kinds, with its cause. -/
theorem resolve_fail {m : RegMap} {op : Op} {k : Kind} {a n : Nat} {f : ResKind}
    (h : resolve m op k a n = .fail f) :
    (f = .incorrectDataType ∧ admits op k = false) ∨
      (admits op k = true ∧ linearOf k (mapEntry m k) a = .fail f) ∨
      (admits op k = true ∧ ∃ lin, linearOf k (mapEntry m k) a = .ok lin ∧
        checkSpan op (span k (mapEntry m k) lin n) = .fail f) := by
  unfold resolve at h
  split at h
  · simp at h
  · split at h
    · simp only [Decoded.fail.injEq] at h
      rename_i h1
      exact .inl ⟨h.symm, by simpa using h1⟩
    · rename_i h1
      split at h
      · rename_i lin hl
        exact .inr (.inr ⟨by simpa using h1, lin, hl, h⟩)
      · rename_i g hg
        simp only [Decoded.fail.injEq] at h
        exact .inr (.inl ⟨by simpa using h1, h ▸ hg⟩)
      · simp at h

/-- The decoder refuses length 0 and nothing else. -/
theorem resolve_refuse {m : RegMap} {op : Op} {k : Kind} {a n : Nat} {x : Refusal}
    (h : resolve m op k a n = .refuse x) : n = 0 ∧ x = .zeroLength := by
  unfold resolve at h
  split at h
  · simp only [Decoded.refuse.injEq] at h
    exact ⟨by assumption, h.symm⟩
  · split at h
    · simp at h
    · split at h
      · exact (checkSpan_ne_refuse _ _ _ h).elim
      · simp at h
      · rename_i g hg
        exact (linearOf_ne_refuse _ _ _ _ hg).elim

/-- A force the decoder passes. -/
theorem resolveForce_ok {m : RegMap} {k : Kind} {a : Nat} {r : ResolvedBit} (h : resolveForce m k a = .ok r) :
    kindClass k = .bit ∧ linearOf k (mapEntry m k) a = .ok r.lin ∧ r.dev = (mapEntry m k).fbase.toNat + r.lin := by
  unfold resolveForce at h
  split at h
  · simp at h
  · split at h
    · rename_i hk _ lin hl
      simp only [Decoded.ok.injEq] at h
      subst h
      exact ⟨by simpa using hk, hl, rfl⟩
    · simp at h
    · simp at h

/-- A force the decoder fails. -/
theorem resolveForce_fail {m : RegMap} {k : Kind} {a : Nat} {f : ResKind} (h : resolveForce m k a = .fail f) :
    (f = .incorrectDataType ∧ kindClass k ≠ .bit) ∨ (kindClass k = .bit ∧ linearOf k (mapEntry m k) a = .fail f) := by
  unfold resolveForce at h
  split at h
  · simp only [Decoded.fail.injEq] at h
    exact .inl ⟨h.symm, by assumption⟩
  · rename_i hk
    split at h
    · simp at h
    · rename_i g hg
      simp only [Decoded.fail.injEq] at h
      exact .inr ⟨by simpa using hk, h ▸ hg⟩
    · simp at h

/-- The force decoder refuses nothing. -/
theorem resolveForce_ne_refuse (m : RegMap) (k : Kind) (a : Nat) (x : Refusal) : resolveForce m k a ≠ .refuse x := by
  unfold resolveForce
  split
  · simp
  · split
    · simp
    · simp
    · rename_i g hg
      exact (linearOf_ne_refuse _ _ _ _ hg).elim

/-- `Lmax` bounds the linear address of every normalised address up to `n` (20_memory R56). -/
theorem linearise_le_maxLinear {k : Kind} {a n : Nat} (h : a ≤ n) : linearise k a ≤ maxLinear k n := by
  unfold linearise maxLinear
  split
  · split <;> omega
  · exact h

/-- `Lmax` is reached: it is the linear address of some normalised address up to `n` (log 10). -/
theorem maxLinear_reached (k : Kind) (n : Nat) : ∃ a, a ≤ n ∧ linearise k a = maxLinear k n := by
  unfold linearise maxLinear
  by_cases hk : octalStyle k = true
  · simp only [hk, if_true]
    by_cases h10 : n < 10
    · exact ⟨n, le_refl n, by rw [if_pos h10]; omega⟩
    · by_cases h0 : n % 10 = 0
      · exact ⟨n - 1, by omega, by rw [if_neg h10, h0]; omega⟩
      · exact ⟨n, le_refl n, by rw [if_neg h10]; omega⟩
  · simp only [hk]
    exact ⟨n, le_refl n, by simp⟩

/-- Every entry of a well-formed map is well-formed for its kind. -/
theorem regMapWf_entry {m : RegMap} (h : regMapWf m = true) (k : Kind) : entryWf k (mapEntry m k) = true := by
  simp only [regMapWf, Bool.and_eq_true, List.all_eq_true] at h
  exact h.1 k (by cases k <;> decide)

end Sys2Proof.Machine
end

