-- ==== Sys2Proof/Laws/Payload.lean ====
section
/-! SUPPORT. Small facts of the payload codec (43_payload_codec R220 to R227). -/

namespace Sys2Proof.Machine

@[simp] theorem packBits_length (d : List Bool) : (packBits d).length = (d.length + 7) / 8 := by simp [packBits]

@[simp] theorem wordsToBytes_length (w : List Word) : (wordsToBytes w).length = 2 * w.length := by
  induction w with
  | nil => rfl
  | cons x w ih => simp only [wordsToBytes, List.flatMap_cons, List.length_append, List.length_cons] at *; simp; omega

@[simp] theorem portBits_length (d : DataPort) (n : Nat) : (portBits d n).length = min n 512 := by
  simp [portBits, maxDataBits]

@[simp] theorem portWords_length (d : DataPort) (n : Nat) : (portWords d n).length = min n 32 := by
  simp [portWords, maxDataWords]

/-- `bitof` reads one bit. -/
theorem bitof_eq_getLsbD (b : Byte) (n : Nat) (h : n < 8) : bitof b n = b.getLsbD n := by
  interval_cases n <;> revert b <;> decide

/-- `word16` puts the high byte above the low one. -/
theorem word16_eq_append (lo hi : Byte) : word16 lo hi = hi ++ lo := by
  apply BitVec.eq_of_toNat_eq
  simp only [word16, BitVec.toNat_ofNat, BitVec.toNat_append]
  have h1 := lo.isLt
  have h2 := hi.isLt
  rw [Nat.shiftLeft_eq, Nat.mul_comm hi.toNat, ← Nat.two_pow_add_eq_or_of_lt h1]
  omega

/-- The bits a read unpacks, when every byte it needs is there (43_payload_codec R222). -/
theorem unpackFrom_some (p : List Byte) :
    ∀ (n start : Nat), start + n ≤ 8 * p.length →
      ∃ bs, unpackFrom p start n = some bs ∧ bs.length = n ∧
        ∀ j, j < n → ∃ b, p[(start + j) / 8]? = some b ∧ bs[j]? = some (bitof b ((start + j) % 8))
  | 0, _, _ => ⟨[], rfl, rfl, fun _ h => absurd h (Nat.not_lt_zero _)⟩
  | n + 1, start, h => by
    obtain ⟨bs, hu, hl, hj⟩ := unpackFrom_some p n (start + 1) (by omega)
    have hlt : start / 8 < p.length := by omega
    refine ⟨bitof p[start / 8] (start % 8) :: bs, ?_, by simp [hl], ?_⟩
    · simp [unpackFrom, hu, hlt]
    · intro j hjn
      cases j with
      | zero => exact ⟨p[start / 8], by simp [hlt], by simp⟩
      | succ j =>
        obtain ⟨b, hb, hbs⟩ := hj j (by omega)
        refine ⟨b, ?_, ?_⟩
        · rw [show start + (j + 1) = start + 1 + j by omega]; exact hb
        · rw [show start + (j + 1) = start + 1 + j by omega]; simpa using hbs

/-- The words a read unpacks, when every byte it needs is there (43_payload_codec R226, R227). -/
theorem bytesToWords_some :
    ∀ (n : Nat) (p : List Byte), 2 * n ≤ p.length →
      ∃ ws, bytesToWords n p = some ws ∧ ws.length = n ∧
        ∀ j, j < n → ∃ lo hi, p[2 * j]? = some lo ∧ p[2 * j + 1]? = some hi ∧ ws[j]? = some (word16 lo hi)
  | 0, _, _ => ⟨[], by simp [bytesToWords], rfl, fun _ h => absurd h (Nat.not_lt_zero _)⟩
  | n + 1, [], h => by simp at h
  | n + 1, [_], h => by simp only [List.length_cons, List.length_nil] at h; omega
  | n + 1, lo :: hi :: p, h => by
    obtain ⟨ws, hu, hl, hj⟩ := bytesToWords_some n p (by simp only [List.length_cons] at h; omega)
    refine ⟨word16 lo hi :: ws, by simp [bytesToWords, hu], by simp [hl], ?_⟩
    intro j hjn
    cases j with
    | zero => exact ⟨lo, hi, by simp, by simp, by simp⟩
    | succ j =>
      obtain ⟨a, b, ha, hb, hw⟩ := hj j (by omega)
      exact ⟨a, b, by simpa [Nat.mul_add] using ha, by simpa [Nat.mul_add] using hb, by simpa using hw⟩

/-- A read that gives words gives the number it was asked for. -/
theorem bytesToWords_length {n : Nat} {p : List Byte} {ws : List Word} (h : bytesToWords n p = some ws) :
    ws.length = n := by
  induction n, p using bytesToWords.induct generalizing ws with
  | case1 p => simp [bytesToWords] at h; simp [h]
  | case2 n lo hi p v hv ih =>
    simp only [bytesToWords, hv, Option.some.injEq] at h
    simp [← h, ih hv]
  | case3 n lo hi p hv ih => simp [bytesToWords, hv] at h
  | case4 n p hp => simp [bytesToWords] at h

/-- A read that gives bits gives the number it was asked for. -/
theorem unpackFrom_length {p : List Byte} :
    ∀ {n start : Nat} {bs : List Bool}, unpackFrom p start n = some bs → bs.length = n
  | 0, _, bs, h => by simp [unpackFrom] at h; simp [h]
  | n + 1, start, bs, h => by
    simp only [unpackFrom] at h
    split at h
    · rename_i b rest _ hr
      simp only [Option.some.injEq] at h
      simp [← h, unpackFrom_length hr]
    · simp at h

end Sys2Proof.Machine
end

