-- ==== Sys2Proof/Laws/Ops.lean ====
section
/-! SUPPORT. What each shared operation can do, said once: the provers cite these instead of unfolding. -/

namespace Sys2Proof.Machine

/-! ### Deliver and accept -/

/-- Deliver waits or hands the result over (42_transactions R177). -/
theorem deliver_next {p : Payload} {s t : State} (h : deliver p s = .next t) :
    (s.takes = 0 ∧ t = s) ∨
      ∃ n, s.takes = n + 1 ∧ t = { s with
        takes := n, delivered := s.delivered ++ [⟨s.resKind, p⟩], resValid := false, fsm := .idle } := by
  unfold deliver at h
  split at h
  · exact .inl ⟨by assumption, by simpa using h.symm⟩
  · exact .inr ⟨_, by assumption, by simpa using h.symm⟩

/-- Deliver always answers a state. -/
theorem deliver_answers (p : Payload) (s : State) : ∃ t, deliver p s = .next t := by
  unfold deliver
  split <;> exact ⟨_, rfl⟩

/-- Accept waits or latches (42_transactions R171). -/
theorem accept_next {c : CmdLatch} {l : DataPort → State → State} {s t : State} (h : accept c l s = .next t) :
    (offered s = none ∧ t = s) ∨
      ∃ o, offered s = some o ∧ t = { l o.data (takeOffer s) with
        cmd := some c, resKind := .inProgress, resValid := false, fsm := .building } := by
  unfold accept at h
  split at h
  · exact .inl ⟨by assumption, by simpa using h.symm⟩
  · exact .inr ⟨_, by assumption, by simpa using h.symm⟩

/-- Accept always answers a state. -/
theorem accept_answers (c : CmdLatch) (l : DataPort → State → State) (s : State) : ∃ t, accept c l s = .next t := by
  unfold accept
  split <;> exact ⟨_, rfl⟩

/-! ### Build -/

/-- The frame that `loadFrame` writes, and that its fields fit. -/
theorem loadFrame_some {body : List Byte} {n : Nat} {s t : State} (h : loadFrame body n s = some t) :
    body.length + 3 ≤ 139 ∧ n ≤ 132 ∧ t = { s with
      tx := mkframe body, txLen := some (BitVec.ofNat 8 (body.length + 3)), rxExp := some (BitVec.ofNat 8 n) } := by
  unfold loadFrame txSize rxSize at h
  simp only [mkframe_length] at h
  split at h
  · simp only [Option.some.injEq] at h
    exact ⟨by omega, by omega, h.symm⟩
  · simp at h

/-- A frame that fits is loaded. -/
theorem loadFrame_eq {body : List Byte} {n : Nat} (s : State) (hb : body.length + 3 ≤ 139) (hn : n ≤ 132) :
    loadFrame body n s = some { s with
      tx := mkframe body, txLen := some (BitVec.ofNat 8 (body.length + 3)), rxExp := some (BitVec.ofNat 8 n) } := by
  unfold loadFrame txSize rxSize
  rw [mkframe_length, if_pos ⟨hb, hn⟩]

/-- The end of a build is a ready state or a model fault. -/
theorem loadRequest_cases (l : Option State) (body : List Byte) (n : Nat) :
    (∃ s t, l = some s ∧ loadFrame body n s = some t ∧ loadRequest l body n = .ready t) ∨
      loadRequest l body n = .fault .fieldOverflow := by
  unfold loadRequest
  cases l with
  | none => exact .inr rfl
  | some s =>
    cases h : loadFrame body n s with
    | none => exact .inr (by simp [h])
    | some t => exact .inl ⟨s, t, rfl, h, by simp [h]⟩

/-- What `latchResolved` writes. -/
theorem latchResolved_some {r : Resolved} {s t : State} (h : latchResolved r s = some t) :
    r.dev < 2 ^ 16 ∧ r.bc < 2 ^ 7 ∧ t = { s with
      raAddr := some ⟨r.lin, BitVec.ofNat 16 r.dev⟩, raSpan := some ⟨r.first, r.last, BitVec.ofNat 7 r.bc⟩ } := by
  unfold latchResolved at h
  split at h
  · simp only [Option.some.injEq] at h
    rename_i hf
    exact ⟨hf.1, hf.2, h.symm⟩
  · simp at h

/-- What `latchResolvedBit` writes. -/
theorem latchResolvedBit_some {r : ResolvedBit} {s t : State} (h : latchResolvedBit r s = some t) :
    r.dev < 2 ^ 16 ∧ t = { s with raAddr := some ⟨r.lin, BitVec.ofNat 16 r.dev⟩ } := by
  unfold latchResolvedBit at h
  split at h
  · simp only [Option.some.injEq] at h
    exact ⟨by assumption, h.symm⟩
  · simp at h

/-- The build of a command as a function of the command (42_transactions R178 to R184). -/
def buildOf : Instr → State → Built
  | .readBits k a n => buildRead .readBits k a n
  | .writeBits k a n => buildWrite .writeBits k a n (bitsPayload n)
  | .forceSet k a _ => buildForce forceSetByte k a
  | .forceClear k a _ => buildForce forceClearByte k a
  | .readW16 k a n => buildRead .readW16 k a n
  | .readW32 k a n => buildRead .readW32 k a n
  | .writeW16 k a n => buildWrite .writeW16 k a n (wordsPayload n)

/-- The validation of a command as a function of the command. -/
def validateOf : Instr → State → Outcome
  | .readBits _ _ n => validateRead (storeBits n)
  | .writeBits _ _ _ => validateAck
  | .forceSet _ _ _ => validateAck
  | .forceClear _ _ _ => validateAck
  | .readW16 _ _ n => validateRead (storeWords n.toNat)
  | .readW32 _ _ n => validateRead (storeWords (2 * n.toNat))
  | .writeW16 _ _ _ => validateAck

/-- The data a command latches. -/
def latchOf : Instr → DataPort → State → State
  | .readBits _ _ _ => latchNoData
  | .writeBits _ _ n => latchBits n
  | .forceSet _ _ _ => latchNoData
  | .forceClear _ _ _ => latchNoData
  | .readW16 _ _ _ => latchNoData
  | .readW32 _ _ _ => latchNoData
  | .writeW16 _ _ n => latchWords n

/-- The payload a command offers after a success. -/
def payloadOf : Instr → State → Payload
  | .readBits _ _ _ => offerBits
  | .writeBits _ _ _ => offerNothing
  | .forceSet _ _ _ => offerNothing
  | .forceClear _ _ _ => offerNothing
  | .readW16 _ _ _ => offerWords
  | .readW32 _ _ _ => offerWords
  | .writeW16 _ _ _ => offerNothing

/-- Every command is its transaction, run from the four parts above. -/
theorem exec_eq_transact (i : Instr) (s : State) :
    exec i s = transact ⟨i.op, i.kind, i.addr, i.len⟩ (latchOf i) (buildOf i) (validateOf i) (payloadOf i) s := by
  cases i <;> rfl

theorem exec_idle {i : Instr} {s : State} (h : s.fsm = .idle) :
    exec i s = accept ⟨i.op, i.kind, i.addr, i.len⟩ (latchOf i) s := by
  rw [exec_eq_transact, transact, h]

theorem exec_building {i : Instr} {s : State} (h : s.fsm = .building) :
    exec i s = buildAndTransmit (buildOf i) s := by
  rw [exec_eq_transact, transact, h]

theorem exec_awaiting {i : Instr} {s : State} (h : s.fsm = .awaiting) : exec i s = await s := by
  rw [exec_eq_transact, transact, h]

theorem exec_validating {i : Instr} {s : State} (h : s.fsm = .validating) : exec i s = validateOf i s := by
  rw [exec_eq_transact, transact, h]

theorem exec_success {i : Instr} {s : State} (h : s.fsm = .success) : exec i s = deliver (payloadOf i s) s := by
  rw [exec_eq_transact, transact, h]

theorem exec_failed {i : Instr} {s : State} (h : s.fsm = .failed) : exec i s = deliver .none s := by
  rw [exec_eq_transact, transact, h]

/-- The body of a command's request, from its resolved address and the latched data. -/
def bodyOf : Instr → Word → BitVec 7 → State → List Byte
  | .readBits _ _ _, d, b, _ => readBody d b
  | .writeBits _ _ _, d, b, s => writeBody d b (packBits s.wdataBits)
  | .forceSet _ _ _, d, _, _ => forceBody forceSetByte d
  | .forceClear _ _ _, d, _, _ => forceBody forceClearByte d
  | .readW16 _ _ _, d, b, _ => readBody d b
  | .readW32 _ _ _, d, b, _ => readBody d b
  | .writeW16 _ _ _, d, b, s => writeBody d b (wordsToBytes s.wdataWords)

/-- A build that is ready, of a read or a write: the decoder passed, the data was there, and what was written. -/
theorem buildOf_ready {i : Instr} {s t : State} (hf : isForce i.op = false) (h : buildOf i s = .ready t) :
    ∃ r body n, resolve s.cfg.regmap i.op i.kind i.addr.toNat i.len.toNat = .ok r ∧ r.dev < 2 ^ 16 ∧
      body = bodyOf i (BitVec.ofNat 16 r.dev) (BitVec.ofNat 7 r.bc) s ∧ body.length + 3 ≤ 139 ∧
      n = (if isRead i.op then readResponseLength r.bc else ackLength) ∧
      (i.op = .writeBits → s.wdataBits.length = i.len.toNat) ∧
      (i.op = .writeW16 → s.wdataWords.length = i.len.toNat) ∧
      t = { s with
        raAddr := some ⟨r.lin, BitVec.ofNat 16 r.dev⟩, raSpan := some ⟨r.first, r.last, BitVec.ofNat 7 r.bc⟩
        tx := mkframe body, txLen := some (BitVec.ofNat 8 (body.length + 3)), rxExp := some (BitVec.ofNat 8 n) } := by
  have done : ∀ (r : Resolved) (body : List Byte) (n : Nat),
      loadRequest (latchResolved r s) body n = .ready t →
      r.dev < 2 ^ 16 ∧ body.length + 3 ≤ 139 ∧ t = { s with
        raAddr := some ⟨r.lin, BitVec.ofNat 16 r.dev⟩, raSpan := some ⟨r.first, r.last, BitVec.ofNat 7 r.bc⟩
        tx := mkframe body, txLen := some (BitVec.ofNat 8 (body.length + 3)), rxExp := some (BitVec.ofNat 8 n) } := by
    intro r body n hl
    obtain ⟨s1, t1, h1, h2, h3⟩ | h3 := loadRequest_cases (latchResolved r s) body n
    · obtain ⟨hd, -, rfl⟩ := latchResolved_some h1
      obtain ⟨hb, -, rfl⟩ := loadFrame_some h2
      rw [h3] at hl
      simp only [Built.ready.injEq] at hl
      exact ⟨hd, hb, hl.symm⟩
    · rw [h3] at hl; simp at hl
  cases i with
  | readBits k a n =>
    simp only [buildOf, buildRead] at h
    split at h
    · simp at h
    · simp at h
    · rename_i r hr
      obtain ⟨hd, hb, ht⟩ := done _ _ _ h
      exact ⟨r, _, _, hr, hd, rfl, hb, rfl, by simp [Instr.op], by simp [Instr.op], ht⟩
  | writeBits k a n =>
    simp only [buildOf, buildWrite] at h
    split at h
    · simp at h
    · simp at h
    · rename_i r hr
      split at h
      · simp at h
      · rename_i p hp
        simp only [bitsPayload] at hp
        split at hp
        · rename_i hl
          simp only [Option.some.injEq] at hp
          subst hp
          obtain ⟨hd, hb, ht⟩ := done _ _ _ h
          exact ⟨r, _, _, hr, hd, rfl, hb, rfl, fun _ => hl, by simp [Instr.op], ht⟩
        · simp at hp
  | forceSet k a n => simp [Instr.op, isForce] at hf
  | forceClear k a n => simp [Instr.op, isForce] at hf
  | readW16 k a n =>
    simp only [buildOf, buildRead] at h
    split at h
    · simp at h
    · simp at h
    · rename_i r hr
      obtain ⟨hd, hb, ht⟩ := done _ _ _ h
      exact ⟨r, _, _, hr, hd, rfl, hb, rfl, by simp [Instr.op], by simp [Instr.op], ht⟩
  | readW32 k a n =>
    simp only [buildOf, buildRead] at h
    split at h
    · simp at h
    · simp at h
    · rename_i r hr
      obtain ⟨hd, hb, ht⟩ := done _ _ _ h
      exact ⟨r, _, _, hr, hd, rfl, hb, rfl, by simp [Instr.op], by simp [Instr.op], ht⟩
  | writeW16 k a n =>
    simp only [buildOf, buildWrite] at h
    split at h
    · simp at h
    · simp at h
    · rename_i r hr
      split at h
      · simp at h
      · rename_i p hp
        simp only [wordsPayload] at hp
        split at hp
        · rename_i hl
          simp only [Option.some.injEq] at hp
          subst hp
          obtain ⟨hd, hb, ht⟩ := done _ _ _ h
          exact ⟨r, _, _, hr, hd, rfl, hb, rfl, by simp [Instr.op], fun _ => hl, ht⟩
        · simp at hp

/-- A build that is ready, of a force. -/
theorem buildOf_ready_force {i : Instr} {s t : State} (hf : isForce i.op = true) (h : buildOf i s = .ready t) :
    ∃ r body, resolveForce s.cfg.regmap i.kind i.addr.toNat = .ok r ∧ r.dev < 2 ^ 16 ∧
      body = bodyOf i (BitVec.ofNat 16 r.dev) 0 s ∧ body.length = 6 ∧
      t = { s with
        raAddr := some ⟨r.lin, BitVec.ofNat 16 r.dev⟩
        tx := mkframe body, txLen := some 9, rxExp := some 1 } := by
  have done : ∀ (b : Byte) (k : Kind) (a : Word), buildForce b k a s = .ready t →
      ∃ r, resolveForce s.cfg.regmap k a.toNat = .ok r ∧ r.dev < 2 ^ 16 ∧ t = { s with
        raAddr := some ⟨r.lin, BitVec.ofNat 16 r.dev⟩
        tx := mkframe (forceBody b (BitVec.ofNat 16 r.dev)), txLen := some 9, rxExp := some 1 } := by
    intro b k a hb
    simp only [buildForce] at hb
    split at hb
    · simp at hb
    · simp at hb
    · rename_i r hr
      obtain ⟨s1, t1, h1, h2, h3⟩ | h3 := loadRequest_cases (latchResolvedBit r s) (forceBody b (BitVec.ofNat 16 r.dev)) ackLength
      · obtain ⟨hd, rfl⟩ := latchResolvedBit_some h1
        obtain ⟨-, -, rfl⟩ := loadFrame_some h2
        rw [h3] at hb
        simp only [Built.ready.injEq] at hb
        exact ⟨r, hr, hd, hb.symm⟩
      · rw [h3] at hb; simp at hb
  cases i with
  | forceSet k a n =>
    obtain ⟨r, hr, hd, ht⟩ := done _ _ _ h
    exact ⟨r, _, hr, hd, rfl, rfl, ht⟩
  | forceClear k a n =>
    obtain ⟨r, hr, hd, ht⟩ := done _ _ _ h
    exact ⟨r, _, hr, hd, rfl, rfl, ht⟩
  | readBits k a n => simp [Instr.op, isForce] at hf
  | writeBits k a n => simp [Instr.op, isForce] at hf
  | readW16 k a n => simp [Instr.op, isForce] at hf
  | readW32 k a n => simp [Instr.op, isForce] at hf
  | writeW16 k a n => simp [Instr.op, isForce] at hf

/-- A build that fails, fails as the decoder does. -/
theorem buildOf_failed {i : Instr} {s : State} {f : ResKind} (h : buildOf i s = .failed f) :
    (isForce i.op = true ∧ resolveForce s.cfg.regmap i.kind i.addr.toNat = .fail f) ∨
      (isForce i.op = false ∧ resolve s.cfg.regmap i.op i.kind i.addr.toNat i.len.toNat = .fail f) := by
  have never : ∀ l body n, loadRequest l body n ≠ .failed f := by
    intro l body n hn
    obtain ⟨_, _, _, _, h3⟩ | h3 := loadRequest_cases l body n <;> simp [h3] at hn
  cases i <;> simp only [buildOf, buildRead, buildWrite, buildForce] at h <;> (split at h) <;>
    first
      | (rename_i g hg; simp only [Built.failed.injEq] at h; subst h
         first
           | exact .inr ⟨rfl, hg⟩
           | exact .inl ⟨rfl, hg⟩)
      | simp at h
      | exact (never _ _ _ h).elim
      | (split at h
         · simp at h
         · exact (never _ _ _ h).elim)

/-- A build that refuses, refuses length 0 (40_address_decoder R121). -/
theorem buildOf_refused {i : Instr} {s : State} {x : Refusal} (h : buildOf i s = .refused x) :
    x = .zeroLength ∧ isForce i.op = false ∧ i.len.toNat = 0 := by
  have never : ∀ l body n, loadRequest l body n ≠ .refused x := by
    intro l body n hn
    obtain ⟨_, _, _, _, h3⟩ | h3 := loadRequest_cases l body n <;> simp [h3] at hn
  cases i <;> simp only [buildOf, buildRead, buildWrite, buildForce] at h <;> (split at h) <;>
    first
      | (rename_i g hg; simp only [Built.refused.injEq] at h; subst h
         first
           | exact ⟨(resolve_refuse hg).2, rfl, (resolve_refuse hg).1⟩
           | exact (resolveForce_ne_refuse _ _ _ _ hg).elim)
      | simp at h
      | exact (never _ _ _ h).elim
      | (split at h
         · simp at h
         · exact (never _ _ _ h).elim)

/-! ### Transmit -/

/-- Everything transmit can do once the frame is there (42_transactions R173): wait, fail on the flush, fail on the
write, or go on. -/
theorem transmit_next {before s t : State} (h : transmit before s = .next t) :
    ∃ frame, requestFrame s = some frame ∧
      ((s.flushAnswers = [] ∧ t = before) ∨
       (∃ fs, s.flushAnswers = false :: fs ∧
          t = fail .transmitFailure { s with flushAnswers := fs, calls := s.calls ++ [.flushInput] }) ∨
       (∃ fs, s.flushAnswers = true :: fs ∧ s.writeAnswers = [] ∧ t = before) ∨
       (∃ fs w ws, s.flushAnswers = true :: fs ∧ s.writeAnswers = w :: ws ∧ w ≠ (frame.length : Int) ∧
          t = fail .transmitFailure { s with
            flushAnswers := fs, writeAnswers := ws, calls := s.calls ++ [.flushInput, .write frame] }) ∨
       (∃ fs w ws, s.flushAnswers = true :: fs ∧ s.writeAnswers = w :: ws ∧ w = (frame.length : Int) ∧
          t = { s with
            flushAnswers := fs, writeAnswers := ws, calls := s.calls ++ [.flushInput, .write frame]
            fsm := .awaiting })) := by
  unfold transmit at h
  split at h
  · simp at h
  · rename_i frame hf
    refine ⟨frame, hf, ?_⟩
    split at h
    · exact .inl ⟨by assumption, by simpa using h.symm⟩
    · exact .inr (.inl ⟨_, by assumption, by simpa using h.symm⟩)
    · rename_i fs hfs
      split at h
      · exact .inr (.inr (.inl ⟨fs, hfs, by assumption, by simpa using h.symm⟩))
      · rename_i w ws hws
        split at h
        · exact .inr (.inr (.inr (.inr ⟨fs, w, ws, hfs, hws, by assumption, by simpa using h.symm⟩)))
        · exact .inr (.inr (.inr (.inl ⟨fs, w, ws, hfs, hws, by assumption, by simpa using h.symm⟩)))

/-- A loaded frame is the frame that is sent (10_state R26). -/
theorem requestFrame_loaded {s : State} {body : List Byte} (ht : s.tx = mkframe body)
    (hl : s.txLen = some (BitVec.ofNat 8 (body.length + 3))) (hb : body.length + 3 ≤ 139) :
    requestFrame s = some (mkframe body) := by
  have hlen : (BitVec.ofNat 8 (body.length + 3)).toNat = body.length + 3 := by
    rw [BitVec.toNat_ofNat]; omega
  unfold requestFrame
  rw [hl, ht]
  simp only [hlen, mkframe_length, le_refl, if_true, Option.some.injEq]
  exact List.take_of_length_le (by simp)

/-- A build and transmit step that answers a state: the decoder failed, or the build was ready and transmit ran. -/
theorem buildAndTransmit_next {i : Instr} {s t : State} (h : buildAndTransmit (buildOf i) s = .next t) :
    (∃ f, buildOf i s = .failed f ∧ t = fail f s) ∨ ∃ b, buildOf i s = .ready b ∧ transmit s b = .next t := by
  unfold buildAndTransmit at h
  split at h
  · simp at h
  · simp at h
  · exact .inl ⟨_, by assumption, by simpa using h.symm⟩
  · exact .inr ⟨_, by assumption, h⟩

/-! ### Await -/

/-- Everything await can do (42_transactions R174): wait, time out, or take the expected bytes. -/
theorem await_next {s t : State} (h : await s = .next t) :
    ∃ n, s.rxExp = some n ∧
      ((s.readAnswers = [] ∧ t = s) ∨
       (∃ a as, s.readAnswers = a :: as ∧ (a = .error ∨ ∃ b, a = .bytes b ∧ b.length < n.toNat) ∧
          t = fail .timeout { s with readAnswers := as, calls := s.calls ++ [.read n.toNat] }) ∨
       (∃ b as, s.readAnswers = .bytes b :: as ∧ n.toNat ≤ b.length ∧
          t = { s with
            readAnswers := as, calls := s.calls ++ [.read n.toNat], rx := b.take n.toNat, rxLen := some n
            fsm := .validating })) := by
  unfold await at h
  split at h
  · simp at h
  · rename_i n hn
    refine ⟨n, hn, ?_⟩
    split at h
    · exact .inl ⟨by assumption, by simpa using h.symm⟩
    · exact .inr (.inl ⟨_, _, by assumption, .inl rfl, by simpa using h.symm⟩)
    · rename_i b as hb
      simp only at h
      split at h
      · rename_i hlt
        exact .inr (.inl ⟨_, as, hb, .inr ⟨b, rfl, hlt⟩, by simpa using h.symm⟩)
      · exact .inr (.inr ⟨b, as, hb, by omega, by simpa using h.symm⟩)

/-! ### Validate -/

/-- A received response is the whole of `rx` when the length field counts it (10_state R27). -/
theorem received_all {s : State} {n : BitVec 8} (h : s.rxLen = some n) (hn : n.toNat = s.rx.length) :
    received s = some s.rx := by
  unfold received
  rw [h]
  simp [hn]

/-- Everything the validation of a read can do (42_transactions R175). -/
theorem validateRead_next {store : List Byte → State → Option State} {s t : State}
    (h : validateRead store s = .next t) :
    ∃ r, received s = some r ∧ 4 ≤ r.length ∧
      ((∃ k, checkResponse s.cfg r = .error k ∧ t = fail k s) ∨
       (∃ p u, checkResponse s.cfg r = .ok p ∧ store p s = some u ∧ t = succeed u)) := by
  unfold validateRead at h
  split at h
  · simp at h
  · rename_i r hr
    split at h
    · simp at h
    · refine ⟨r, hr, by omega, ?_⟩
      split at h
      · exact .inl ⟨_, by assumption, by simpa using h.symm⟩
      · rename_i p hp
        split at h
        · simp at h
        · exact .inr ⟨p, _, hp, by assumption, by simpa using h.symm⟩

/-- Everything the validation of an acknowledgement can do (42_transactions R176). -/
theorem validateAck_next {s t : State} (h : validateAck s = .next t) :
    ∃ b bs, received s = some (b :: bs) ∧
      ((b = ackByte ∧ t = succeed (dropPayload s)) ∨ (b ≠ ackByte ∧ t = fail .notAcknowledged s)) := by
  unfold validateAck at h
  split at h
  · rename_i b bs hr
    refine ⟨b, bs, hr, ?_⟩
    split at h
    · exact .inl ⟨by assumption, by simpa using h.symm⟩
    · exact .inr ⟨by assumption, by simpa using h.symm⟩
  · simp at h
  · simp at h

/-- What a store of bits writes. -/
theorem storeBits_some {n : Word} {p : List Byte} {s t : State} (h : storeBits n p s = some t) :
    ∃ ra bs, s.raAddr = some ra ∧ unpackBits s.cfg.readBitsOrigin ra.lin n.toNat p = some bs ∧
      bs.length = n.toNat ∧ t = { s with outBits := bs } := by
  unfold storeBits at h
  split at h
  · simp at h
  · rename_i ra hra
    split at h
    · simp at h
    · rename_i bs hbs
      refine ⟨ra, bs, hra, hbs, ?_, by simpa using h.symm⟩
      unfold unpackBits at hbs
      split at hbs <;> exact unpackFrom_length hbs

/-- What a store of words writes. -/
theorem storeWords_some {n : Nat} {p : List Byte} {s t : State} (h : storeWords n p s = some t) :
    ∃ ws, bytesToWords n p = some ws ∧ ws.length = n ∧ t = { s with outWords := ws } := by
  unfold storeWords at h
  split at h
  · simp at h
  · rename_i ws hws
    exact ⟨ws, hws, bytesToWords_length hws, by simpa using h.symm⟩

/-! ### A step -/

/-- A step that answers a state: a reset, a wait with nothing offered, or the step of the fetched command. -/
theorem step_next {s t : State} (h : step s = .next t) :
    (resetAsserted s = true ∧ t = resetBlock (sampled s)) ∨
      (resetAsserted s = false ∧ cfgWf s.cfg = true ∧
        ((fetch s = .nothing ∧ t = sampled s) ∨ ∃ i, fetch s = .command i ∧ exec i (sampled s) = .next t)) := by
  unfold step at h
  split at h
  · exact .inl ⟨by assumption, by simpa using h.symm⟩
  · rename_i hr
    split at h
    · simp at h
    · rename_i hc
      refine .inr ⟨by simpa using hr, by simpa using hc, ?_⟩
      split at h
      · exact .inl ⟨by assumption, by simpa using h.symm⟩
      · simp at h
      · simp at h
      · exact .inr ⟨_, by assumption, h⟩

/-- At the end of a run the next step, if it is no reset, is a wait. -/
theorem step_of_runEnded {s : State} (h : runEnded s = true) (hr : resetAsserted s = false) :
    step s = .next (sampled s) := by
  simp only [runEnded, Bool.and_eq_true, beq_iff_eq, Option.isNone_iff_eq_none] at h
  simp [step, fetch, hr, h]

/-- A run whose next step is refused has not ended (70_reset_and_hazards R301). -/
theorem not_runEnded_of_refused {s : State} {x : Refusal} (h : step s = .refused x) : runEnded s = false := by
  by_contra he
  have hr : resetAsserted s = false := by
    by_contra hr
    simp [step, Bool.eq_true_of_not_eq_false hr] at h
  rw [step_of_runEnded (Bool.eq_true_of_not_eq_false he) hr] at h
  simp at h

/-- What a fetch finds in `IDLE`. -/
theorem fetch_idle {s : State} (h : s.fsm = .idle) :
    (fetch s = .nothing ∧ offered s = none) ∨
      ∃ o, offered s = some o ∧
        ((∃ e, decode o.word = .error e ∧ fetch s = .reserved) ∨ ∃ i, decode o.word = .ok i ∧ fetch s = .command i) := by
  unfold fetch
  rw [if_pos h]
  cases ho : offered s with
  | none => exact .inl ⟨rfl, rfl⟩
  | some o =>
    refine .inr ⟨o, rfl, ?_⟩
    cases hd : decode o.word with
    | error e => exact .inl ⟨e, rfl, by simp [hd]⟩
    | ok i => exact .inr ⟨i, rfl, by simp [hd]⟩

/-- What a fetch finds outside `IDLE`. -/
theorem fetch_busy {s : State} (h : s.fsm ≠ .idle) :
    (s.cmd = none ∧ fetch s = .unwritten) ∨ ∃ c, s.cmd = some c ∧ fetch s = .command (latchedInstr c) := by
  unfold fetch
  rw [if_neg h]
  cases s.cmd with
  | none => exact .inl ⟨rfl, rfl⟩
  | some c => exact .inr ⟨c, rfl, rfl⟩

/-- The fields of a latched command are the latch's. -/
@[simp] theorem latchedInstr_fields (c : CmdLatch) :
    (latchedInstr c).op = c.op ∧ (latchedInstr c).kind = c.kind ∧ (latchedInstr c).addr = c.addr ∧
      (latchedInstr c).len = c.len := by
  cases c with
  | mk op k a n => cases op <;> exact ⟨rfl, rfl, rfl, rfl⟩

/-- A command is built back from its fields. -/
@[simp] theorem mkInstr_fields (i : Instr) : mkInstr i.op i.kind i.addr i.len = i := by
  cases i <;> rfl

end Sys2Proof.Machine
end

