-- ==== Sys2Proof/Laws/PerInstr.lean ====
section
/-! SUPPORT. Facts of every command as syntax, one lemma a constructor: the four fields of its word are its own. -/

namespace Sys2Proof.Machine

/-- The fields of a word put together from an operation, a kind, an address and a length (30_encoding R80). -/
theorem fields_of_append (a n : Word) (k o : BitVec 4) :
    let w : CmdWord := ((n ++ a : BitVec 32) ++ k : BitVec 36) ++ o
    opField w = o ∧ kindField w = k ∧ addrField w = a ∧ lenField w = n := by
  have h : ∀ w : CmdWord, w = ((n ++ a : BitVec 32) ++ k : BitVec 36) ++ o →
      w.toNat = n.toNat * 2 ^ 24 + a.toNat * 2 ^ 8 + k.toNat * 2 ^ 4 + o.toNat := by
    intro w hw
    rw [hw]
    simp only [BitVec.toNat_append, Nat.shiftLeft_eq]
    have ha := a.isLt
    have hk := k.isLt
    have ho := o.isLt
    rw [Nat.mul_comm n.toNat (2 ^ 16), ← Nat.two_pow_add_eq_or_of_lt ha]
    rw [Nat.mul_comm (2 ^ 16 * n.toNat + a.toNat) (2 ^ 4), ← Nat.two_pow_add_eq_or_of_lt hk]
    rw [Nat.mul_comm _ (2 ^ 4), ← Nat.two_pow_add_eq_or_of_lt ho]
    omega
  intro w
  have hw := h w rfl
  have ha := a.isLt
  have hn := n.isLt
  have hk := k.isLt
  have ho := o.isLt
  refine ⟨?_, ?_, ?_, ?_⟩ <;> apply BitVec.eq_of_toNat_eq <;>
    simp only [opField, kindField, addrField, lenField, BitVec.extractLsb'_toNat, hw, Nat.shiftRight_eq_div_pow] <;>
    omega

/-- An operation's code selects it (30_encoding R81). -/
theorem opOfCode_opCode (o : Op) : opOfCode (opCode o) = some o := by cases o <;> rfl

/-- A kind's code selects it (30_encoding R82). -/
theorem kindOfCode_kindCode (k : Kind) : kindOfCode (kindCode k) = some k := by cases k <;> rfl

end Sys2Proof.Machine

namespace Sys2Proof.Laws.EncodedFields

/-- The four fields of a command's word (30_encoding R80). -/
def Statement (i : Instr) : Prop :=
  opField (encode i) = opCode i.op ∧ kindField (encode i) = kindCode i.kind ∧ addrField (encode i) = i.addr ∧
    lenField (encode i) = i.len

theorem readBits (k : Kind) (a n : Word) : Statement (.readBits k a n) := Machine.fields_of_append a n _ _

theorem writeBits (k : Kind) (a n : Word) : Statement (.writeBits k a n) := Machine.fields_of_append a n _ _

theorem forceSet (k : Kind) (a n : Word) : Statement (.forceSet k a n) := Machine.fields_of_append a n _ _

theorem forceClear (k : Kind) (a n : Word) : Statement (.forceClear k a n) := Machine.fields_of_append a n _ _

theorem readW16 (k : Kind) (a n : Word) : Statement (.readW16 k a n) := Machine.fields_of_append a n _ _

theorem readW32 (k : Kind) (a n : Word) : Statement (.readW32 k a n) := Machine.fields_of_append a n _ _

theorem writeW16 (k : Kind) (a n : Word) : Statement (.writeW16 k a n) := Machine.fields_of_append a n _ _

end Sys2Proof.Laws.EncodedFields
end

