-- ==== Sys2Proof/Tests/Slice0.lean ====
section
/-! SUPPORT. The model's own tests, each about one step or one function, with expected values from
95_test_vectors.md, and a witness for the hypotheses of each statement. -/

namespace Sys2Proof.Tests

open Sys2Proof Sys2Proof.Machine

/-! ### Small states -/

/-- The next state of an outcome. -/
def nextOf : Outcome → Option State
  | .next s => some s
  | .fault _ => none
  | .refused _ => none

/-- An idle block with one command offered, a transport that takes `n` bytes and answers `a`, and a caller that takes
one result. -/
def offering (w : CmdWord) (d : DataPort) (n : Int) (a : ReadAnswer) : State :=
  { State.reset with
    offers := [⟨w, d⟩], flushAnswers := [true], writeAnswers := [n], readAnswers := [a], takes := 1 }

/-- A block in sequencer value `f` that runs command `i`. -/
def running (f : Fsm) (i : Instr) : State :=
  { State.reset with
    fsm := f, cmd := some ⟨i.op, i.kind, i.addr, i.len⟩, flushAnswers := [true] }

/-- A block that builds command `i` with the latched data, its transport taking `n` bytes. -/
def buildingOf (i : Instr) (bits : List Bool) (words : List Word) (n : Int) : State :=
  { running .building i with wdataBits := bits, wdataWords := words, writeAnswers := [n] }

/-- A block that validates the response `r` to command `i`, resolved at linear address `lin`. -/
def validatingOf (i : Instr) (lin : Nat) (r : List Byte) : State :=
  { running .validating i with
    raAddr := some ⟨lin, 0⟩, rx := r, rxLen := some (BitVec.ofNat 8 r.length) }

/-- The frame and the expected length that a build writes. -/
def frameOf (i : Instr) (bits : List Bool) (words : List Word) (n : Int) : Option (Fsm × List Byte × Option (BitVec 8)) :=
  (nextOf (exec i (buildingOf i bits words n))).map (fun t => (t.fsm, t.tx, t.rxExp))

/-- The kind and the output that a validation writes. -/
def resultOf (i : Instr) (lin : Nat) (r : List Byte) : Option (ResKind × List Bool × List Word) :=
  (nextOf (exec i (validatingOf i lin r))).map (fun t => (t.resKind, t.outBits, t.outWords))

/-! ### Well-formedness -/

theorem test_wf_readBits_len0 : (Instr.readBits .outputContact 10 0).wellFormed = false := by decide
theorem test_wf_writeBits_len0 : (Instr.writeBits .outputContact 0 0).wellFormed = false := by decide
theorem test_wf_readW16_len0 : (Instr.readW16 .data 20 0).wellFormed = false := by decide
theorem test_wf_readW32_len0 : (Instr.readW32 .counter32 200 0).wellFormed = false := by decide
theorem test_wf_writeW16_len0 : (Instr.writeW16 .data 20 0).wellFormed = false := by decide
theorem test_wf_force_len0 : (Instr.forceSet .memoryContact 500 0).wellFormed = true := by decide
theorem test_wf_force_clear_len0 : (Instr.forceClear .outputContact 10 0).wellFormed = true := by decide

/-! ### Decoding (95_test_vectors 3.1) -/

theorem test_decode_readBits : (decode 0x0002000A20).toOption = some (.readBits .outputContact 10 2) := by decide
theorem test_decode_writeBits : (decode 0x0004000A21).toOption = some (.writeBits .outputContact 10 4) := by decide
theorem test_decode_forceSet : (decode 0x000001F452).toOption = some (.forceSet .memoryContact 500 0) := by decide
theorem test_decode_forceClear : (decode 0x0000000A23).toOption = some (.forceClear .outputContact 10 0) := by decide
theorem test_decode_readW16 : (decode 0x0002001494).toOption = some (.readW16 .data 20 2) := by decide
theorem test_decode_readW32 : (decode 0x000100C875).toOption = some (.readW32 .counter32 200 1) := by decide
theorem test_decode_writeW16 : (decode 0x0002001496).toOption = some (.writeW16 .data 20 2) := by decide
theorem test_decode_reserved_op : decode 0x0001001497 = .error (.reservedOp 7) := by rfl
theorem test_decode_reserved_kind : decode 0x00010014C4 = .error (.reservedKind 0xC) := by rfl
theorem test_decode_table_word : decodeTableWord 40 0x00011F40A4 = some (.readW16 .dataSpecial 8000 1) := by decide
theorem test_encode_len : encode (.readBits .inputContact 0 512) = 0x0200000010 := by decide
theorem test_encode_force_pseudo : encode (forcePseudo .memoryContact 500 false) = 0x000001F453 := by decide
theorem test_rows_disjoint : opcodeRows.Pairwise (fun a b => a.mask &&& b.mask &&& (a.pattern ^^^ b.pattern) ≠ 0) := by
  decide

/-! ### The syntax (30_encoding R96) -/

/-- The braces of a data list, by their codes. -/
def braced (cs : List Char) : List Char := [Char.ofNat 123] ++ cs ++ [Char.ofNat 125]

theorem test_asm_write :
    (readLine ("WRITE_BITS OutputContact, 10, ".toList ++ braced "1, 0, 1, 1".toList)).bind assemble =
      some ⟨0x0004000A21, 0b1101⟩ := by decide +kernel
/-- A trailing comma, and an empty list (both log 15). -/
theorem test_asm_list_edges :
    (readLine ("WRITE_W16 Data, 20, ".toList ++ braced "1, 2,".toList),
      readLine ("WRITE_W16 Data, 20, ".toList ++ braced [])) = (none, some (.writeW16 .data 20 [])) := by decide +kernel
/-- FORCE's value as a number of R96, as a word, and one that is neither 1 nor 0 (log 15). -/
theorem test_asm_force_values :
    ["0x1", "0x0", "true", "false", "2"].map (fun v => forceValue v.toList) =
      [some true, some false, some true, some false, none] := by decide +kernel
theorem test_asm_force : (readLine "FORCE MemoryContact, 500, 1".toList).bind assemble = some ⟨0x000001F452, 0⟩ := by
  decide +kernel

/-! ### The register map and the decoder (95_test_vectors sections 1 and 3.2) -/

theorem test_testmap_wf : cfgWf defaultCfg = true := by decide
theorem test_map_base_wrong :
    regMapWf { testMap with inputContact := ⟨0x0080, 0, 377, 10, 0, 0x0400⟩ } = false := by decide
/-- Two accepted user addresses of one linear address, under a well-formed entry whose minimum is 5 (log 26). -/
theorem test_octal_shared :
    let e : MapEntry := ⟨0x00A0, 5, 377, 8, 0, 0x0500⟩
    entryWf .inputContact e = true ∧ linearOf .inputContact e 13 = .ok 8 ∧ linearOf .inputContact e 15 = .ok 8 := by
  decide
theorem test_resolve_octal : resolve testMap .readBits .inputContact 123 1 = .ok ⟨99, 0x008C, 12, 12, 1⟩ := by decide
theorem test_resolve_minimum : resolve testMap .readBits .memorySpecial 8255 8 = .ok ⟨255, 0x01FF, 31, 32, 2⟩ := by
  decide
theorem test_resolve_w32 : resolve testMap .readW32 .counter32 255 1 = .ok ⟨55, 0x0CDC, 55, 58, 4⟩ := by decide
theorem test_resolve_digit_first :
    resolve testMap .readBits .inputContact 378 1 = .fail .incorrectAddressFormat := by decide
theorem test_resolve_kind_first : resolve testMap .readBits .data 18 1 = .fail .incorrectDataType := by decide
theorem test_resolve_ceiling_before_alignment :
    resolve testMap .writeBits .memoryContact 9 513 = .fail .tooManyBytes := by decide
theorem test_resolve_misaligned : resolve testMap .writeBits .outputContact 11 1 = .fail .addressMisaligned := by decide
theorem test_resolve_force : resolveForce testMap .inputContact 17 = .ok ⟨15, 0x040F⟩ := by decide

/-! ### The codecs (95_test_vectors 3.3, 3.4, 3.7 and 2.4) -/

theorem test_hex2_letters : hexs [0x9F, 0xA0, 0x4F] = [0x39, 0x46, 0x41, 0x30, 0x34, 0x46] := by decide
theorem test_hex4_force : hex4Force 0x1234 = [0x33, 0x34, 0x31, 0x32] := by decide
theorem test_unhex_edges : [0x3A, 0x40, 0x47, 0x60, 0x67].map (unhexchar true) = [none, none, none, none, none] := by
  decide
theorem test_unhex_lower : (unhexchar false 0x61, unhexchar true 0x66) = (none, some 15) := by decide
theorem test_unhexs_bad : unhexs false [0x33, 0x47, 0x31, 0x32] = none := by decide
theorem test_sum8_wraps : sum8 [0xFF, 0x01] = 0 := by decide
theorem test_pack_nine : packBits [true, true, true, true, true, true, true, true, true] = [0xFF, 0x01] := by decide
theorem test_words_to_bytes : wordsToBytes [0x1234, 0xABCD] = [0x34, 0x12, 0xCD, 0xAB] := by decide
theorem test_scenario_d_encode :
    (encodeF32 ⟨0, 127, 0x200000⟩, encodeU32 150000, encodeI32 (-160000)) =
      ((0x0000, 0x3FA0), some (0x49F0, 0x0002), some (0x8F00, 0xFFFD)) := by decide
theorem test_scenario_d_decode :
    (f32Number (f32 0x0000 0x3FA0), u32 0x49F0 0x0002, i32 0x8F00 0xFFFD) =
      (.finite false 0xA00000 (-23), 150000, -160000) := by decide
theorem test_i32_extremes : (i32 0xFFFF 0xFFFF, i32 0xFFFF 0x7FFF, i32 0 0x8000) = (-1, 2147483647, -2147483648) := by
  decide

/-! ### One build and one validation per command (95_test_vectors 3.5 and 3.6) -/

theorem test_frame_readBits :
    frameOf (.readBits .outputContact 7 2) [] [] 11 =
      some (.awaiting, [0x02, 0x30, 0x30, 0x30, 0x41, 0x30, 0x30, 0x32, 0x03, 0x36, 0x36], some 8) := by decide
theorem test_result_readBits :
    resultOf (.readBits .outputContact 7 2) 7 [0x02, 0x38, 0x30, 0x30, 0x31, 0x03, 0x43, 0x43] =
      some (.success, [true, true], []) := by decide
theorem test_frame_writeBits :
    frameOf (.writeBits .outputContact 10 4) [true, false, true, true] [] 13 =
      some (.awaiting, [0x02, 0x31, 0x30, 0x30, 0x41, 0x31, 0x30, 0x31, 0x30, 0x44, 0x03, 0x44, 0x42], some 1) := by
  decide
theorem test_result_writeBits : resultOf (.writeBits .outputContact 10 4) 8 [0x30] = some (.notAcknowledged, [], []) := by
  decide
theorem test_frame_forceSet :
    frameOf (.forceSet .memoryContact 500 0) [] [] 9 =
      some (.awaiting, [0x02, 0x37, 0x46, 0x34, 0x30, 0x39, 0x03, 0x31, 0x44], some 1) := by decide
theorem test_result_forceSet : resultOf (.forceSet .memoryContact 500 0) 500 [0x06] = some (.success, [], []) := by
  decide
theorem test_frame_forceClear :
    frameOf (.forceClear .outputContact 10 0) [] [] 9 =
      some (.awaiting, [0x02, 0x38, 0x30, 0x38, 0x30, 0x35, 0x03, 0x30, 0x38], some 1) := by decide
theorem test_result_forceClear :
    resultOf (.forceClear .outputContact 10 0) 8 [0x15] = some (.notAcknowledged, [], []) := by decide
theorem test_frame_readW16 :
    frameOf (.readW16 .data 20 2) [] [] 11 =
      some (.awaiting, [0x02, 0x30, 0x31, 0x30, 0x32, 0x38, 0x30, 0x34, 0x03, 0x36, 0x32], some 12) := by decide
theorem test_result_readW16 :
    resultOf (.readW16 .data 20 2) 20 [0x02, 0x33, 0x34, 0x31, 0x32, 0x37, 0x38, 0x35, 0x36, 0x03, 0x41, 0x38] =
      some (.checksumMismatch, [], []) := by decide
theorem test_frame_readW32 :
    frameOf (.readW32 .counter32 200 2) [] [] 11 =
      some (.awaiting, [0x02, 0x30, 0x30, 0x43, 0x30, 0x30, 0x30, 0x38, 0x03, 0x36, 0x45], some 20) := by decide
theorem test_result_readW32 :
    resultOf (.readW32 .counter32 200 2) 0
        [0x02, 0x46, 0x30, 0x34, 0x39, 0x30, 0x32, 0x30, 0x30, 0x30, 0x30, 0x38, 0x46, 0x46, 0x44, 0x46, 0x46, 0x03,
         0x39, 0x43] =
      some (.success, [], [0x49F0, 0x0002, 0x8F00, 0xFFFD]) := by decide
theorem test_frame_writeW16 :
    frameOf (.writeW16 .data 20 2) [] [0x1234, 0x5678] 19 =
      some (.awaiting, [0x02, 0x31, 0x31, 0x30, 0x32, 0x38, 0x30, 0x34, 0x33, 0x34, 0x31, 0x32, 0x37, 0x38, 0x35, 0x36,
        0x03, 0x30, 0x37], some 1) := by decide
theorem test_result_writeW16 : resultOf (.writeW16 .data 20 2) 20 [0x06] = some (.success, [], []) := by decide

/-! ### A step -/

/-- The word of READ_W16 Data, 20, 2 placed for the next step is latched by it. -/
theorem test_step_with_fetch_word :
    (nextOf (step (State.reset.withFetchWord 40 0x0002001494))).map (fun t => (t.fsm, t.cmd)) =
      some (.building, some ⟨.readW16, .data, 20, 2⟩) := by decide
/-- From reset with nothing offered, a step is a wait. -/
theorem test_step_from_reset : (nextOf (step State.reset)) = some State.reset := by decide
/-- A run has ended at reset, and not where the map is refused (70_reset_and_hazards R301). -/
theorem test_run_ended :
    (runEnded State.reset, runEnded { State.reset with
      cfg := { defaultCfg with regmap := { testMap with data := ⟨0x1000, 0, 511, 8, 2, 0⟩ } } }) = (true, false) := by
  decide
/-- Reset in the middle of a transaction (95_test_vectors, Program 4). -/
theorem test_step_reset :
    (nextOf (step { running .awaiting (.readBits .memoryContact 7 3) with resets := [true] })).map
      (fun t => (t.fsm, t.resValid, t.resKind, t.cmd)) = some (.idle, false, .inProgress, none) := by decide

/-! ### Witnesses: states and operands that meet the hypotheses of each statement -/

/-- A check of the next state shows that there is one. -/
theorem next_of_any {o : Outcome} {p : State → Bool} (h : (nextOf o).any p = true) : ∃ t, o = .next t ∧ p t = true := by
  cases o with
  | next t => exact ⟨t, rfl, h⟩
  | fault f => simp [nextOf] at h
  | refused r => simp [nextOf] at h

/-- A block that waits for the answer to FORCE_SET MemoryContact, 500. -/
def awaitingForce : State :=
  { running .awaiting (.forceSet .memoryContact 500 0) with
    raAddr := some ⟨500, 0x09F4⟩, tx := [0x02, 0x37, 0x46, 0x34, 0x30, 0x39, 0x03, 0x31, 0x44], txLen := some 9
    rxExp := some 1 }

/-- A block that building a command of length 0 has brought to a stop. -/
def buildingLength0 : State := running .building (.readW16 .data 20 0)

/-- A block that offers the kind `k` of FORCE_SET MemoryContact, 500. -/
def offeringResult (f : Fsm) (k : ResKind) : State :=
  { running f (.forceSet .memoryContact 500 0) with resKind := k, resValid := true }

theorem inv_awaitingForce : BlockInv awaitingForce := by
  refine ⟨by decide, ⟨rfl, rfl⟩, fun _ => ⟨_, rfl, by decide, by decide⟩, by unfold bufferShape; decide, ?_, ?_⟩
  · exact fun _ => ⟨_, rfl, ⟨⟨500, 0x09F4⟩, by decide, rfl, by decide⟩, rfl⟩
  · exact fun h => absurd h (by decide)

theorem inv_buildingLength0 : BlockInv buildingLength0 := by
  refine ⟨by decide, ⟨rfl, rfl⟩, fun _ => ⟨_, rfl, by decide, by decide⟩, by unfold bufferShape; decide, ?_, ?_⟩
  · exact fun h => absurd h (by decide)
  · exact fun h => absurd h (by decide)

theorem inv_success : BlockInv (offeringResult .success .success) := by
  refine ⟨by decide, ⟨rfl, rfl⟩, fun _ => ⟨_, rfl, by decide, by decide⟩, by unfold bufferShape; decide, ?_, ?_⟩
  · exact fun h => absurd h (by decide)
  · exact fun h => absurd h (by decide)

theorem inv_failed : BlockInv (offeringResult .failed .timeout) := by
  refine ⟨by decide, ⟨rfl, rfl⟩, fun _ => ⟨_, rfl, by decide, by decide⟩, by unfold bufferShape; decide, ?_, ?_⟩
  · exact fun h => absurd h (by decide)
  · exact fun h => absurd h (by decide)

theorem inv_idle_offered : BlockInv (offering 0x0001001497 0 0 .error) := by
  refine ⟨by decide, ⟨rfl, trivial⟩, fun h => absurd rfl h, by unfold bufferShape; decide, ?_, ?_⟩
  · exact fun h => absurd h (by decide)
  · exact fun h => absurd h (by decide)

/-- The lowest reserved `op`. -/
theorem witness_ReservedWordsAreRefused_op :
    let s := offering 0x0001001497 0 0 .error
    s.fsm = .idle ∧ resetAsserted s = false ∧ cfgWf s.cfg = true ∧ offered s = some ⟨0x0001001497, 0⟩ ∧
      7 ≤ (0x0001001497#40).toNat % 16 := ⟨rfl, rfl, by decide, rfl, by decide⟩

/-- The lowest `kind` that is none. -/
theorem witness_ReservedWordsAreRefused_kind :
    let s := offering 0x00010014C4 0 0 .error
    s.fsm = .idle ∧ resetAsserted s = false ∧ cfgWf s.cfg = true ∧ offered s = some ⟨0x00010014C4, 0⟩ ∧
      12 ≤ (0x00010014C4#40).toNat / 16 % 16 := ⟨rfl, rfl, by decide, rfl, by decide⟩

theorem witness_OpcodeRowsDecodeToTheirOperations :
    OpcodeRow.mk .writeW16 0xF 6 ∈ opcodeRows ∧ (OpcodeRow.mk .writeW16 0xF 6).covers 0x00000000B6 = true ∧
      (0x00000000B6#40).toNat / 16 % 16 < 12 := by decide

theorem witness_StepRunsTheDecodedCommand_offered :
    let s := offering 0x0002001494 0 11 .error
    resetAsserted s = false ∧ cfgWf s.cfg = true ∧ s.fsm = .idle ∧ offered s = some ⟨0x0002001494, 0⟩ ∧
      decode 0x0002001494 = .ok (.readW16 .data 20 2) := ⟨by decide, by decide, by decide, rfl, rfl⟩

theorem witness_StepRunsTheDecodedCommand_latched :
    resetAsserted awaitingForce = false ∧ cfgWf awaitingForce.cfg = true ∧ awaitingForce.fsm ≠ .idle ∧
      awaitingForce.cmd = some ⟨.forceSet, .memoryContact, 500, 0⟩ := by decide

theorem witness_ResetInAnyStateSetsEveryField :
    ({ awaitingForce with resets := [true, false] } : State).resets = true :: [false] := by decide

theorem witness_IllFormedConfigurationIsRefused :
    let s := { State.reset with
      cfg := { defaultCfg with regmap := { testMap with data := ⟨0x1000, 0, 511, 8, 2, 0⟩ } } }
    resetAsserted s = false ∧ cfgWf s.cfg = false := by decide

theorem witness_WaitsChangeNothing_idle : resetAsserted State.reset = false ∧ BlockInv State.reset ∧
    State.reset.fsm = .idle ∧ State.reset.offers = [] := by
  refine ⟨by decide, ⟨by decide, ⟨rfl, trivial⟩, fun h => absurd rfl h, by unfold bufferShape; decide, ?_, ?_⟩, rfl, rfl⟩
  · exact fun h => absurd h (by decide)
  · exact fun h => absurd h (by decide)

theorem witness_WaitsChangeNothing_awaiting : resetAsserted awaitingForce = false ∧ BlockInv awaitingForce ∧
    awaitingForce.fsm = .awaiting ∧ awaitingForce.readAnswers = [] := ⟨by decide, inv_awaitingForce, rfl, rfl⟩

theorem witness_WaitsChangeNothing_success : BlockInv (offeringResult .success .success) ∧
    (offeringResult .success .success).fsm = .success ∧ (offeringResult .success .success).takes = 0 :=
  ⟨inv_success, rfl, rfl⟩

theorem witness_WaitsChangeNothing_failed : BlockInv (offeringResult .failed .timeout) ∧
    (offeringResult .failed .timeout).fsm = .failed ∧ (offeringResult .failed .timeout).takes = 0 :=
  ⟨inv_failed, rfl, rfl⟩

theorem witness_AcceptLatchesTheCommandAndItsData :
    (offering 0x0004000A21 0b1101 13 .error).fsm = .idle ∧
      offered (offering 0x0004000A21 0b1101 13 .error) = some ⟨0x0004000A21, 0b1101⟩ := by decide +kernel

theorem witness_CommandPortHasNoEffectOnARunningTransaction : awaitingForce.fsm ≠ .idle := by decide

theorem witness_AnyWaitingCommandCanBeNext :
    let s := { State.reset with offers := [⟨0x0002001494, 0⟩, ⟨0x000001F452, 0⟩] }
    s.offers[1]? = some ⟨0x000001F452, 0⟩ ∧ s.fsm = .idle ∧
      ∃ t, exec (.forceSet .memoryContact 500 0) { s with turns := [1] } = .next t ∧ (t.fsm == .building) = true :=
  ⟨rfl, rfl, next_of_any (by decide +kernel)⟩

theorem witness_ZeroLengthIsRefused :
    buildingLength0.fsm = .building ∧ isForce (Instr.readW16 .data 20 0).op = false ∧
      (Instr.readW16 .data 20 0).len = 0 := by decide

theorem witness_DecoderFailureMakesNoTransportCall :
    (running .building (.forceSet .data 0 0)).fsm = .building ∧
      resolveForce (running .building (.forceSet .data 0 0)).cfg.regmap .data 0 = .fail .incorrectDataType ∧
      resolve testMap .readW16 .data 512 1 = .fail .addressOutOfRange := by decide

theorem witness_PreIoFailuresComeFromTheBuildStepAlone :
    (running .building (.readW16 .data 0 33)).fsm ≠ .failed ∧
      ∃ t, exec (.readW16 .data 0 33) (running .building (.readW16 .data 0 33)) = .next t ∧
        (t.fsm == .failed && preIo t.resKind) = true := ⟨by decide, next_of_any (by decide)⟩

/-- A read at the ceiling of 64 bytes (95_test_vectors 3.2). -/
theorem witness_ReadRequestIsBuiltAndSent :
    let s := buildingOf (.readW16 .data 511 32) [] [] 11
    isRead (Instr.readW16 .data 511 32).op = true ∧ s.fsm = .building ∧ cfgWf s.cfg = true ∧
      resolve s.cfg.regmap .readW16 .data 511 32 = .ok ⟨511, 0x13FE, 511, 574, 64⟩ ∧
      s.flushAnswers = true :: [] ∧ s.writeAnswers = 11 :: [] := by decide

theorem witness_WriteBitsRequestIsBuiltAndSent :
    let s := buildingOf (.writeBits .memoryContact 16 9) (List.replicate 9 true) [] 15
    s.fsm = .building ∧ cfgWf s.cfg = true ∧ s.wdataBits.length = (9#16).toNat ∧
      resolve s.cfg.regmap .writeBits .memoryContact 16 9 = .ok ⟨16, 0x0102, 2, 3, 2⟩ ∧
      s.flushAnswers = true :: [] ∧ s.writeAnswers = ((11 + 2 * 2 : Nat) : Int) :: [] := by decide

theorem witness_WriteWordsRequestIsBuiltAndSent :
    let s := buildingOf (.writeW16 .data 20 2) [] [0x1234, 0x5678] 19
    s.fsm = .building ∧ cfgWf s.cfg = true ∧ s.wdataWords.length = (2#16).toNat ∧
      resolve s.cfg.regmap .writeW16 .data 20 2 = .ok ⟨20, 0x1028, 20, 23, 4⟩ ∧
      s.flushAnswers = true :: [] ∧ s.writeAnswers = ((11 + 4 * 2 : Nat) : Int) :: [] := by decide

theorem witness_ForceRequestIsBuiltAndSent :
    let s := buildingOf (.forceSet .memoryContact 500 0) [] [] 9
    s.fsm = .building ∧ cfgWf s.cfg = true ∧ resolveForce s.cfg.regmap .memoryContact 500 = .ok ⟨500, 0x09F4⟩ ∧
      s.flushAnswers = true :: [] ∧ s.writeAnswers = 9 :: [] := by decide

/-- A force that is sent; a count of -1 is one that differs from the frame's length. -/
theorem witness_FlushOrWriteFailureIsTransmitFailure :
    let s := buildingOf (.forceSet .memoryContact 500 0) [] [] 9
    s.fsm = .building ∧ s.flushAnswers = true :: [] ∧ s.writeAnswers = 9 :: [] ∧
      ∃ t, exec (.forceSet .memoryContact 500 0) s = .next t ∧
        (t.fsm == .awaiting && decide ((-1 : Int) ≠ t.tx.length)) = true :=
  ⟨by decide, by decide, by decide, next_of_any (by decide)⟩

theorem witness_UnansweredTransmitLeavesTheBlockBuilding :
    let s := buildingOf (.readW32 .counter32 200 1) [] [] 11
    s.fsm = .building ∧ s.flushAnswers = true :: [] ∧
      ∃ t, exec (.readW32 .counter32 200 1) s = .next t ∧ (t.fsm == .awaiting) = true :=
  ⟨by decide, by decide, next_of_any (by decide)⟩

theorem witness_FrameLengthsAreThoseOfTheTable :
    let s := buildingOf (.writeBits .memoryContact 16 9) (List.replicate 9 true) [] 15
    s.fsm = .building ∧ ∃ t, exec (.writeBits .memoryContact 16 9) s = .next t ∧ (t.fsm == .awaiting) = true :=
  ⟨by decide, next_of_any (by decide)⟩

/-- The answer of the exact length, one that is a byte short, and an error. -/
theorem witness_AwaitTakesTheExpectedBytesOrTimesOut :
    awaitingForce.fsm = .awaiting ∧ awaitingForce.rxExp = some 1 ∧ (1#8).toNat ≤ [0x06#8].length ∧
      ([] : List Byte).length < (1#8).toNat ∧
      ({ awaitingForce with readAnswers := [.error] } : State).readAnswers = .error :: [] := by decide

theorem witness_AcknowledgementIsTheAckByte :
    let s := validatingOf (.writeW16 .data 20 2) 20 [0x06]
    isRead (Instr.writeW16 .data 20 2).op = false ∧ s.fsm = .validating ∧ s.rx = [0x06] ∧ s.rxLen = some 1 := by decide

theorem witness_AcknowledgementIsTheAckByte_nak :
    let s := validatingOf (.forceSet .memoryContact 500 0) 500 [0x15]
    isRead (Instr.forceSet .memoryContact 500 0).op = false ∧ s.fsm = .validating ∧ s.rx = [0x15] ∧
      s.rxLen = some 1 ∧ (0x15#8) ≠ 0x06 := by decide

/-- A response that fails each check in turn (95_test_vectors 3.6): checksum, marker, hex. -/
theorem witness_ReadResponseChecksInOrder :
    let bad := [0x02#8, 0x30, 0x35, 0x03, 0x36, 0x39]
    let unmarked := [0x00#8, 0x30, 0x35, 0x03, 0x36, 0x38]
    let notHex := [0x02#8, 0x30, 0x47, 0x03, 0x37, 0x41]
    (∀ r ∈ [bad, unmarked, notHex], 4 ≤ r.length ∧ r.length ≤ 132 ∧
      (validatingOf (.readBits .outputContact 10 2) 8 r).rxLen = some (BitVec.ofNat 8 r.length)) ∧
    bad.drop 4 ≠ hex2 (sum8 ((bad.drop 1).take 3)) ∧
    unmarked.drop 4 = hex2 (sum8 ((unmarked.drop 1).take 3)) ∧ unmarked[0]? ≠ some 0x02#8 ∧
    notHex.drop 4 = hex2 (sum8 ((notHex.drop 1).take 3)) ∧ notHex[0]? = some 0x02#8 ∧ notHex[3]? = some 0x03#8 ∧
    unhexs false ((notHex.drop 1).take 2) = none := by decide

/-- Responses that pass only under a switch (95_test_vectors 3.6 and 2.5): STX replaced with `CHECK_MARKERS` off,
lowercase data with `HEX_ACCEPT_LOWER` on, and one checksum character of two under `EITHER`. -/
theorem witness_ReadResponseChecksInOrder_pass :
    (checkResponse { defaultCfg with checkMarkers := false } [0x00, 0x33, 0x34, 0x31, 0x32, 0x37, 0x38, 0x35, 0x36, 0x03,
      0x41, 0x37]).toOption = some [0x34, 0x12, 0x78, 0x56] ∧
    (checkResponse { defaultCfg with hexAcceptLower := true } [0x02, 0x33, 0x61, 0x31, 0x32, 0x37, 0x38, 0x35, 0x36, 0x03,
      0x44, 0x34]).toOption = some [0x3A, 0x12, 0x78, 0x56] ∧
    (checkResponse { defaultCfg with checksumMatch := .either } [0x02, 0x33, 0x34, 0x31, 0x32, 0x37, 0x38, 0x35, 0x36,
      0x03, 0x41, 0x38]).toOption = some [0x34, 0x12, 0x78, 0x56] := by decide

/-- Scenario B's response, and a request that uses its byte to the last bit. -/
theorem witness_ReadBitsWritesTheBitsOfTheResponse :
    let r := [0x02#8, 0x30, 0x35, 0x03, 0x36, 0x38]
    let s := validatingOf (.readBits .outputContact 10 8) 8 r
    s.fsm = .validating ∧ s.raAddr = some ⟨8, 0⟩ ∧ s.rx = r ∧ s.rxLen = some (BitVec.ofNat 8 r.length) ∧
      4 ≤ r.length ∧ r.length ≤ 132 ∧ checkResponse s.cfg r = .ok [0x05] ∧
      8 % 8 + (8#16).toNat ≤ 8 * [0x05#8].length :=
  ⟨by decide, by decide, by decide, by decide, by decide, by decide, rfl, by decide⟩

theorem witness_WordReadsWriteTheWordsOfTheResponse :
    let r := [0x02#8, 0x33, 0x34, 0x31, 0x32, 0x37, 0x38, 0x35, 0x36, 0x03, 0x41, 0x37]
    let s := validatingOf (.readW16 .data 20 2) 20 r
    s.fsm = .validating ∧ s.rx = r ∧ s.rxLen = some (BitVec.ofNat 8 r.length) ∧ 4 ≤ r.length ∧ r.length ≤ 132 ∧
      checkResponse s.cfg r = .ok [0x34, 0x12, 0x78, 0x56] ∧ 2 * 2 ≤ [0x34#8, 0x12, 0x78, 0x56].length :=
  ⟨by decide, by decide, by decide, by decide, by decide, rfl, by decide⟩

theorem witness_DeliverHandsOverTheResult :
    ({ offeringResult .success .success with takes := 1 } : State).takes = 0 + 1 ∧
      (offeringResult .success .success).fsm = .success ∧ (offeringResult .failed .timeout).fsm = .failed := by decide

/-- Two bits that straddle a byte boundary (95_test_vectors 3.6). -/
theorem witness_ReadBitsTransactionDeliversTheBits :
    let s := offering 0x0002000720 0 11 (.bytes (readResponse [0x80, 0x01]))
    s.fsm = .idle ∧ s.resets = [] ∧ cfgWf s.cfg = true ∧ offered s = some ⟨0x0002000720, 0⟩ ∧
      decode 0x0002000720 = .ok (.readBits .outputContact 7 2) ∧
      resolve s.cfg.regmap .readBits .outputContact 7 2 = .ok ⟨7, 0x00A0, 0, 1, 2⟩ ∧ [0x80#8, 0x01].length = 2 ∧
      s.flushAnswers = true :: [] ∧ s.writeAnswers = 11 :: [] ∧
      s.readAnswers = .bytes (readResponse [0x80, 0x01]) :: [] ∧ s.takes = 0 + 1 :=
  ⟨by decide, by decide, by decide, rfl, rfl, by decide, by decide, by decide, by decide, by decide, by decide⟩

theorem witness_WordReadTransactionDeliversTheWords :
    let s := offering 0x000100C875 0 11 (.bytes (readResponse [0xF0, 0x49, 0x02, 0x00]))
    (Instr.readW32 .counter32 200 1).op = .readW32 ∧ s.fsm = .idle ∧ s.resets = [] ∧ cfgWf s.cfg = true ∧
      offered s = some ⟨0x000100C875, 0⟩ ∧ decode 0x000100C875 = .ok (.readW32 .counter32 200 1) ∧
      resolve s.cfg.regmap .readW32 .counter32 200 1 = .ok ⟨0, 0x0C00, 0, 3, 4⟩ ∧
      s.readAnswers = .bytes (readResponse [0xF0, 0x49, 0x02, 0x00]) :: [] ∧ s.takes = 0 + 1 :=
  ⟨by decide, by decide, by decide, by decide, rfl, rfl, by decide, by decide, by decide⟩

/-- READ_W16 Data, 20, 2 (95_test_vectors 2.1). -/
theorem witness_WordReadTransactionDeliversTheWords_w16 :
    let s := offering 0x0002001494 0 11 (.bytes (readResponse [0x34, 0x12, 0x78, 0x56]))
    (Instr.readW16 .data 20 2).op = .readW16 ∧ s.fsm = .idle ∧ s.resets = [] ∧ cfgWf s.cfg = true ∧
      offered s = some ⟨0x0002001494, 0⟩ ∧ decode 0x0002001494 = .ok (.readW16 .data 20 2) ∧
      resolve s.cfg.regmap .readW16 .data 20 2 = .ok ⟨20, 0x1028, 20, 23, 4⟩ ∧
      s.readAnswers = .bytes (readResponse [0x34, 0x12, 0x78, 0x56]) :: [] ∧ s.takes = 0 + 1 :=
  ⟨by decide, by decide, by decide, by decide, rfl, rfl, by decide, by decide, by decide⟩

theorem witness_WriteTransactionSendsTheOfferedData :
    let s := offering 0x0004000A21 0b1101 13 (.bytes [0x06])
    (Instr.writeBits .outputContact 10 4).op = .writeBits ∧ s.fsm = .idle ∧ s.resets = [] ∧ cfgWf s.cfg = true ∧
      offered s = some ⟨0x0004000A21, 0b1101⟩ ∧ decode 0x0004000A21 = .ok (.writeBits .outputContact 10 4) ∧
      resolve s.cfg.regmap .writeBits .outputContact 10 4 = .ok ⟨8, 0x00A1, 1, 1, 1⟩ ∧
      s.writeAnswers = ((11 + 2 * 1 : Nat) : Int) :: [] ∧ s.readAnswers = .bytes [0x06] :: [] ∧ s.takes = 0 + 1 :=
  ⟨by decide, by decide, by decide, by decide, rfl, rfl, by decide, by decide, by decide, by decide⟩

/-- WRITE_W16 Data, 20, 1 with an answer that is not ACK. -/
theorem witness_WriteTransactionSendsTheOfferedData_w16 :
    let s := offering 0x0001001496 0x1234 15 (.bytes [0x15])
    (Instr.writeW16 .data 20 1).op = .writeW16 ∧ s.fsm = .idle ∧ s.resets = [] ∧ cfgWf s.cfg = true ∧
      offered s = some ⟨0x0001001496, 0x1234⟩ ∧ decode 0x0001001496 = .ok (.writeW16 .data 20 1) ∧
      resolve s.cfg.regmap .writeW16 .data 20 1 = .ok ⟨20, 0x1028, 20, 21, 2⟩ ∧
      s.writeAnswers = ((11 + 2 * 2 : Nat) : Int) :: [] ∧ s.readAnswers = .bytes [0x15] :: [] ∧ s.takes = 0 + 1 :=
  ⟨by decide, by decide, by decide, by decide, rfl, rfl, by decide, by decide, by decide, by decide⟩

theorem witness_ForceTransactionNamesOneBit :
    let s := offering 0x000001F453 0 9 (.bytes [0x15])
    (Instr.forceClear .memoryContact 500 0).op = .forceClear ∧ s.fsm = .idle ∧ s.resets = [] ∧ cfgWf s.cfg = true ∧
      offered s = some ⟨0x000001F453, 0⟩ ∧ decode 0x000001F453 = .ok (.forceClear .memoryContact 500 0) ∧
      resolveForce s.cfg.regmap .memoryContact 500 = .ok ⟨500, 0x09F4⟩ ∧ s.flushAnswers = true :: [] ∧
      s.writeAnswers = 9 :: [] ∧ s.readAnswers = .bytes [0x15] :: [] ∧ s.takes = 0 + 1 :=
  ⟨by decide, by decide, by decide, by decide, rfl, rfl, by decide, by decide, by decide, by decide, by decide⟩

/-- FORCE_SET MemoryContact, 500 with ACK. -/
theorem witness_ForceTransactionNamesOneBit_set :
    let s := offering 0x000001F452 0 9 (.bytes [0x06])
    (Instr.forceSet .memoryContact 500 0).op = .forceSet ∧ s.fsm = .idle ∧ s.resets = [] ∧ cfgWf s.cfg = true ∧
      offered s = some ⟨0x000001F452, 0⟩ ∧ decode 0x000001F452 = .ok (.forceSet .memoryContact 500 0) ∧
      resolveForce s.cfg.regmap .memoryContact 500 = .ok ⟨500, 0x09F4⟩ ∧ s.flushAnswers = true :: [] ∧
      s.writeAnswers = 9 :: [] ∧ s.readAnswers = .bytes [0x06] :: [] ∧ s.takes = 0 + 1 :=
  ⟨by decide, by decide, by decide, by decide, rfl, rfl, by decide, by decide, by decide, by decide, by decide⟩

theorem witness_FailedCommandTransactionTouchesNoTransport :
    let s := offering 0x0001001210 0 11 .error
    s.fsm = .idle ∧ s.resets = [] ∧ cfgWf s.cfg = true ∧ offered s = some ⟨0x0001001210, 0⟩ ∧
      decode 0x0001001210 = .ok (.readBits .inputContact 18 1) ∧
      resolve s.cfg.regmap .readBits .inputContact 18 1 = .fail .incorrectAddressFormat ∧ s.takes = 0 + 1 :=
  ⟨by decide, by decide, by decide, rfl, rfl, by decide, by decide⟩

/-- The shortest admitted length. -/
theorem witness_DecoderAnswersEveryAdmittedCommand :
    1 ≠ 0 ∧ resolve testMap .readBits .data 18 1 = .fail .incorrectDataType ∧
      resolveForce testMap .inputContact 19 = .fail .incorrectAddressFormat := by decide

/-- One command of each class that the decoder passes, one of them at its kind's maximum and one whose minimum is not
0. -/
theorem witness_ResolvedAddressFollowsTheClassFormulas :
    kindClass .outputContact = .bit ∧ resolve testMap .readBits .outputContact 7 2 = .ok ⟨7, 0x00A0, 0, 1, 2⟩ ∧
    kindClass .data = .w16 ∧ resolve testMap .readW16 .data 511 32 = .ok ⟨511, 0x13FE, 511, 574, 64⟩ ∧
    kindClass .counter32 = .w32 ∧ resolve testMap .readW32 .counter32 255 1 = .ok ⟨55, 0x0CDC, 55, 58, 4⟩ := by decide

/-- Each clause at an edge: digit 8, the address below the minimum, above the maximum, and both ends of the range. -/
theorem witness_KindThenDigitThenRangeAreChecked :
    admits .readW16 .memoryContact = false ∧
    (admits .readBits .inputContact = true ∧ 378 % 10 > testMap.inputContact.nbase - 1) ∧
    (admits .readBits .memorySpecial = true ∧ 7999 % 10 ≤ testMap.memorySpecial.nbase - 1 ∧
      7999 < testMap.memorySpecial.min.toNat) ∧
    (kindClass .memoryContact = .bit ∧ 1536 > testMap.memoryContact.max.toNat) ∧
    (377 % 10 ≤ testMap.inputContact.nbase - 1 ∧ testMap.inputContact.min.toNat ≤ 0 ∧
      377 ≤ testMap.inputContact.max.toNat) := by decide

/-- The longest length and the one after it, at linear address 1 (95_test_vectors 2.6). -/
theorem witness_ByteCeilingIsABoundOnTheLength :
    admits .readBits .inputContact = true ∧ isForce .readBits = false ∧
      linearOf .inputContact testMap.inputContact 1 = .ok 1 ∧ 511 ≤ 512 - 1 % 8 ∧ 512 > 512 - 1 % 8 := by decide

theorem witness_OnlyWriteBitsChecksAlignment :
    resolve testMap .readBits .outputContact 10 8 = .ok ⟨8, 0x00A1, 1, 1, 1⟩ ∧ 8 % 8 = 0 ∧
    resolve testMap .readBits .outputContact 11 1 = .ok ⟨9, 0x00A1, 1, 1, 1⟩ ∧ 9 % 8 ≠ 0 ∧
    resolve testMap .writeBits .outputContact 11 1 = .fail .addressMisaligned ∧
    resolve testMap .readBits .memoryContact 9 513 = .fail .tooManyBytes := by decide

/-- The last accepted digit. -/
theorem witness_OctalStyleConverterIsOneToOne : 377 % 10 ≤ 7 ∧ linearise .inputContact 377 = 303 := by decide

theorem witness_DeviceAddressesFitUnderAWellFormedMap :
    regMapWf testMap = true ∧ 377 ≤ testMap.inputContact.max.toNat - testMap.inputContact.min.toNat ∧
      resolve testMap .readW16 .data 511 1 = .ok ⟨511, 0x13FE, 511, 512, 2⟩ ∧
      resolveForce testMap .memorySpecial 8255 = .ok ⟨255, 0x0FFF⟩ := by decide

/-- Lowercase characters, and the same byte without any. -/
theorem witness_HexCodecRoundTrips :
    unhexs true [0x33, 0x61] = some [0x3A] ∧ unhexs false [0x33, 0x41] = some [0x3A] ∧
      ¬(0x61 ≤ (0x33#8).toNat ∧ (0x33#8).toNat ≤ 0x66) ∧ ¬(0x61 ≤ (0x41#8).toNat ∧ (0x41#8).toNat ≤ 0x66) := by decide

theorem witness_ChecksumSeesOneByteAndNoOrder : [0x31#8, 0x30#8].Perm [0x30#8, 0x31#8] := by decide

/-- Scenario E: the last checksum character. -/
theorem witness_OneCorruptedByteIsAChecksumMismatch :
    defaultCfg.checksumMatch = .both ∧
      readResponse [0x34, 0x12, 0x78, 0x56] =
        [0x02, 0x33, 0x34, 0x31, 0x32, 0x37, 0x38, 0x35, 0x36, 0x03, 0x41] ++ [0x37] ++ [] ∧ (0x37#8) ≠ 0x38 := by
  decide

theorem witness_PackedBitsAreLsbFirstWithZeroPad : 1 < ((List.replicate 9 true).length + 7) / 8 := by decide

theorem witness_PayloadRoundTrips : 8 % 8 = 0 ∧ unpackBits .requested 8 2 [0x02] = some [false, true] := by decide

/-- The ends of both ranges, and the last pair of a buffer. -/
theorem witness_RegisterPairsRoundTrip :
    2 ^ 32 - 1 < 2 ^ 32 ∧ (-(2 ^ 31) : Int) ≤ -(2 ^ 31) ∧ (2 ^ 31 - 1 : Int) ≤ 2 ^ 31 - 1 ∧
      4 + 1 < (List.replicate 6 (0 : Word)).length := by decide

/-- A step that reads the acknowledgement. -/
theorem witness_EveryStepKeepsTheInvariant :
    let s := { awaitingForce with readAnswers := [.bytes [0x06]] }
    BlockInv s ∧ ∃ t, step s = .next t ∧ (t.fsm == .validating && t.calls == [.read 1]) = true :=
  ⟨inv_awaitingForce, next_of_any (by decide)⟩

theorem witness_SequencerFollowsItsTransitionTable : ∃ t, step State.reset = .next t ∧ (t.fsm == .idle) = true :=
  next_of_any (by decide)

theorem witness_NoStepChangesTheConfiguration :
    ∃ t, step { awaitingForce with resets := [true] } = .next t ∧ (t.fsm == .idle) = true := next_of_any (by decide)

theorem witness_TransportCallsComeInOrder :
    ∃ t, step (buildingOf (.forceSet .memoryContact 500 0) [] [] 9) = .next t ∧ (t.calls.length == 2) = true :=
  next_of_any (by decide)

theorem witness_NoStepFaultsFromAGoodState : BlockInv awaitingForce := inv_awaitingForce

theorem witness_OnlyTwoInputsAreRefused_reserved :
    BlockInv (offering 0x0001001497 0 0 .error) ∧ step (offering 0x0001001497 0 0 .error) = .refused .reservedEncoding :=
  ⟨inv_idle_offered, rfl⟩

theorem witness_OnlyTwoInputsAreRefused_length :
    BlockInv buildingLength0 ∧ step buildingLength0 = .refused .zeroLength := ⟨inv_buildingLength0, rfl⟩

theorem witness_CommandsEndWithTheKindsOfTheTable :
    let s := validatingOf (.forceClear .outputContact 10 0) 8 [0x15]
    cfgWf s.cfg = true ∧ resultOffered s.fsm = false ∧ canEndWith .forceClear .notAcknowledged = true ∧
      ∃ t, exec (.forceClear .outputContact 10 0) s = .next t ∧
        (resultOffered t.fsm && t.resKind == .notAcknowledged) = true :=
  ⟨by decide, by decide, by decide, next_of_any (by decide)⟩

/-- The kind of the converter's clause, on a contact kind. -/
theorem witness_CommandsEndWithTheKindsOfTheTable_format :
    let s := buildingOf (.readBits .inputContact 18 1) [] [] 11
    cfgWf s.cfg = true ∧ resultOffered s.fsm = false ∧ canEndWith .readBits .incorrectAddressFormat = true ∧
      ∃ t, exec (.readBits .inputContact 18 1) s = .next t ∧
        (resultOffered t.fsm && t.resKind == .incorrectAddressFormat) = true :=
  ⟨by decide, by decide, by decide, next_of_any (by decide)⟩

/-- An end past the maximum; the start is the maximum itself. -/
theorem witness_OnlyTheStartAddressIsRangeChecked :
    isForce .readW16 = false ∧ resolve testMap .readW16 .data 511 32 = .ok ⟨511, 0x13FE, 511, 574, 64⟩ ∧
      511 ≤ (511#16).toNat ∧
      mapEntry testMap .data = { mapEntry testMap .data with max := 511 } := by decide

end Sys2Proof.Tests
end

section
/-! PROOFS, the block's state. What a decoder that passes a command says of its sizes, and which kinds a command fails
with (40_address_decoder R116 to R128, 20_memory R56). -/

namespace Sys2Proof.Machine

/-! ### Sizes of a resolved command -/

/-- The class of an admitted kind is the operation's. -/
theorem kindClass_of_admits {op : Op} {k : Kind} (h : admits op k = true) : kindClass k = opClass op := by
  simpa [admits] using h

/-- The bytes of a resolved bit command hold its bits from the first byte's start on (R116 to R119). -/
theorem resolve_ok_bits {m : RegMap} {op : Op} {k : Kind} {a n : Nat} {r : Resolved} (h : resolve m op k a n = .ok r)
    (hop : opClass op = .bit) : r.lin % 8 + n ≤ 8 * r.bc ∧ r.bc ≤ 64 := by
  obtain ⟨hn, hk, ⟨lin, -, rfl⟩, -, hbc, -⟩ := resolve_ok h
  refine ⟨?_, hbc⟩
  simp only [span, (kindClass_of_admits hk).trans hop]
  omega

/-- A resolved command on 16-bit registers has two bytes a register, and at most 32 registers (R119). -/
theorem resolve_ok_w16 {m : RegMap} {op : Op} {k : Kind} {a n : Nat} {r : Resolved} (h : resolve m op k a n = .ok r)
    (hop : opClass op = .w16) : r.bc = 2 * n ∧ n ≤ 32 := by
  obtain ⟨hn, hk, ⟨lin, -, rfl⟩, -, hbc, -⟩ := resolve_ok h
  simp only [span, (kindClass_of_admits hk).trans hop] at hbc ⊢
  omega

/-- A resolved command on 32-bit registers has four bytes a register, and at most 16 registers (R119). -/
theorem resolve_ok_w32 {m : RegMap} {op : Op} {k : Kind} {a n : Nat} {r : Resolved} (h : resolve m op k a n = .ok r)
    (hop : opClass op = .w32) : r.bc = 4 * n ∧ n ≤ 16 := by
  obtain ⟨hn, hk, ⟨lin, -, rfl⟩, -, hbc, -⟩ := resolve_ok h
  simp only [span, (kindClass_of_admits hk).trans hop] at hbc ⊢
  omega

/-! ### Device addresses under a well-formed map -/

/-- The linear address of an address that steps 1 to 4 pass is at most `Lmax` (20_memory R56). -/
theorem linearOf_le_maxLinear {k : Kind} {e : MapEntry} {a lin : Nat} (h : linearOf k e a = .ok lin) :
    lin ≤ maxLinear k (e.max.toNat - e.min.toNat) := by
  obtain ⟨-, -, hmax, rfl⟩ := linearOf_ok h
  exact linearise_le_maxLinear (by omega)

/-- Every device address of an entry of a well-formed map fits 16 bits (20_memory R56). -/
theorem regMapWf_addressesFit {m : RegMap} (h : regMapWf m = true) (k : Kind) :
    addressesFit k (mapEntry m k) = true := by
  have he := regMapWf_entry h k
  simp only [entryWf, Bool.and_eq_true] at he
  exact he.2

theorem resolve_dev_lt {m : RegMap} {op : Op} {k : Kind} {a n : Nat} {r : Resolved} (hm : regMapWf m = true)
    (h : resolve m op k a n = .ok r) : r.dev < 2 ^ 16 := by
  obtain ⟨-, -, ⟨lin, hlin, rfl⟩, -⟩ := resolve_ok h
  have hle := linearOf_le_maxLinear hlin
  have hfit := regMapWf_addressesFit hm k
  cases hk : kindClass k <;>
    simp only [addressesFit, span, hk, Bool.and_eq_true, decide_eq_true_eq] at hfit ⊢ <;> omega

theorem resolveForce_dev_lt {m : RegMap} {k : Kind} {a : Nat} {r : ResolvedBit} (hm : regMapWf m = true)
    (h : resolveForce m k a = .ok r) : r.dev < 2 ^ 16 := by
  obtain ⟨hk, hlin, hdev⟩ := resolveForce_ok h
  have hle := linearOf_le_maxLinear hlin
  have hfit := regMapWf_addressesFit hm k
  simp only [addressesFit, hk, Bool.and_eq_true, decide_eq_true_eq] at hfit
  omega

/-! ### The kinds a command or a response fails with are kinds of failure -/

theorem linearOf_fail_isFailure {k : Kind} {e : MapEntry} {a : Nat} {f : ResKind} (h : linearOf k e a = .fail f) :
    isFailure f = true := by
  obtain ⟨rfl, -⟩ | ⟨rfl, -⟩ := linearOf_fail h <;> rfl

theorem checkSpan_fail_isFailure {op : Op} {r : Resolved} {f : ResKind} (h : checkSpan op r = .fail f) :
    isFailure f = true := by
  obtain ⟨rfl, -⟩ | ⟨rfl, -⟩ := checkSpan_fail h <;> rfl

theorem resolve_fail_isFailure {m : RegMap} {op : Op} {k : Kind} {a n : Nat} {f : ResKind}
    (h : resolve m op k a n = .fail f) : isFailure f = true := by
  obtain ⟨rfl, -⟩ | ⟨-, hl⟩ | ⟨-, lin, -, hs⟩ := resolve_fail h
  · rfl
  · exact linearOf_fail_isFailure hl
  · exact checkSpan_fail_isFailure hs

theorem resolveForce_fail_isFailure {m : RegMap} {k : Kind} {a : Nat} {f : ResKind}
    (h : resolveForce m k a = .fail f) : isFailure f = true := by
  obtain ⟨rfl, -⟩ | ⟨-, hl⟩ := resolveForce_fail h
  · rfl
  · exact linearOf_fail_isFailure hl

theorem checkResponse_error_isFailure {c : Cfg} {r : List Byte} {k : ResKind} (h : checkResponse c r = .error k) :
    isFailure k = true := by
  obtain rfl | rfl := checkResponse_error h <;> rfl

theorem buildOf_failed_isFailure {i : Instr} {s : State} {f : ResKind} (h : buildOf i s = .failed f) :
    isFailure f = true := by
  obtain ⟨-, hf⟩ | ⟨-, hf⟩ := buildOf_failed h
  · exact resolveForce_fail_isFailure hf
  · exact resolve_fail_isFailure hf

end Sys2Proof.Machine
end

section
/-! PROOFS, the block's state. What the step of a command writes, said once for all commands: the frame of a build, the
two ends of a validation, and the configuration, which nothing writes (10_state R21). -/

namespace Sys2Proof.Machine

/-! ### The latch of a command -/

/-- What accept writes into the command latch for a command (10_state R24). -/
abbrev commandLatch (i : Instr) : CmdLatch := ⟨i.op, i.kind, i.addr, i.len⟩

theorem commandLatch_latchedInstr (c : CmdLatch) : commandLatch (latchedInstr c) = c := by
  obtain ⟨hop, hkind, haddr, hlen⟩ := latchedInstr_fields c
  simp only [commandLatch, hop, hkind, haddr, hlen]

/-- Outside `IDLE` the command fetched is the one latched (10_state R23). -/
theorem cmd_of_fetch_command {s : State} {i : Instr} (h : fetch s = .command i) (hbusy : s.fsm ≠ .idle) :
    s.cmd = some (commandLatch i) := by
  obtain ⟨-, hu⟩ | ⟨c, hc, hf⟩ := fetch_busy hbusy
  · simp [hu] at h
  · obtain rfl : latchedInstr c = i := by simpa [hf] using h
    rw [hc, commandLatch_latchedInstr]

/-! ### What a build writes -/

/-- A build that is ready wrote the resolved address, a frame that fits `tx`, and the expected length; nothing else. -/
theorem buildOf_ready_frame {i : Instr} {s b : State} (h : buildOf i s = .ready b) :
    ∃ ra sp exp body, body.length + 3 ≤ 139 ∧ b = { s with
      raAddr := ra, raSpan := sp, tx := mkframe body
      txLen := some (BitVec.ofNat 8 (body.length + 3)), rxExp := exp } := by
  cases hf : isForce i.op with
  | true =>
    obtain ⟨r, body, -, -, -, hlen, rfl⟩ := buildOf_ready_force hf h
    exact ⟨_, _, _, body, by omega, by rw [hlen]; rfl⟩
  | false =>
    obtain ⟨r, body, n, -, -, -, hlen, -, -, -, rfl⟩ := buildOf_ready hf h
    exact ⟨_, _, _, body, hlen, rfl⟩

/-- A build that is ready wrote what the decoder gives for its command (42_transactions R172). -/
theorem buildOf_ready_resolvedShape {i : Instr} {s b : State} (h : buildOf i s = .ready b) :
    resolvedShape s.cfg.regmap (commandLatch i) b := by
  cases hf : isForce i.op with
  | true =>
    obtain ⟨r, body, hr, hdev, -, -, rfl⟩ := buildOf_ready_force hf h
    rw [resolvedShape, if_pos hf]
    exact ⟨⟨r, hr, rfl, hdev⟩, rfl⟩
  | false =>
    obtain ⟨r, body, n, hr, hdev, -, -, rfl, -, -, rfl⟩ := buildOf_ready hf h
    rw [resolvedShape, if_neg (by simp [hf])]
    exact ⟨r, hr, rfl, rfl, hdev, rfl⟩

/-- The frame a build wrote is the frame that is sent. -/
theorem requestFrame_of_ready {i : Instr} {s b : State} (h : buildOf i s = .ready b) :
    ∃ frame, requestFrame b = some frame := by
  obtain ⟨ra, sp, exp, body, hlen, rfl⟩ := buildOf_ready_frame h
  exact ⟨mkframe body, requestFrame_loaded rfl rfl hlen⟩

/-! ### What a validation writes -/

/-- How many bits of `out_bits` a command reads (42_transactions R178). -/
def bitCount : Instr → Nat
  | .readBits _ _ n => n.toNat
  | .writeBits _ _ _ | .forceSet _ _ _ | .forceClear _ _ _ | .readW16 _ _ _ | .readW32 _ _ _ | .writeW16 _ _ _ => 0

/-- How many words of `out_words` a command reads (42_transactions R182, R183). -/
def wordCount : Instr → Nat
  | .readW16 _ _ n => n.toNat
  | .readW32 _ _ n => 2 * n.toNat
  | .readBits _ _ _ | .writeBits _ _ _ | .forceSet _ _ _ | .forceClear _ _ _ | .writeW16 _ _ _ => 0

/-- The two ends of a validation: a failure, or a success in which each payload field holds what it held or as much as
the command reads. -/
def ValidatedTo (i : Instr) (s t : State) : Prop :=
  (∃ k, isFailure k = true ∧ t = fail k s) ∨
    ∃ bs ws, (bs = s.outBits ∨ bs.length = bitCount i) ∧ (ws = s.outWords ∨ ws.length = wordCount i) ∧
      t = succeed { s with outBits := bs, outWords := ws }

theorem validateAck_validatedTo {i : Instr} {s t : State} (hb : bitCount i = 0) (hw : wordCount i = 0)
    (h : validateAck s = .next t) : ValidatedTo i s t := by
  obtain ⟨b, bs, -, ⟨-, rfl⟩ | ⟨-, rfl⟩⟩ := validateAck_next h
  · exact .inr ⟨[], [], .inr hb.symm, .inr hw.symm, rfl⟩
  · exact .inl ⟨_, rfl, rfl⟩

theorem validateRead_validatedTo {i : Instr} {store : List Byte → State → Option State} {s t : State}
    (hstore : ∀ p u, store p s = some u → ∃ bs ws, (bs = s.outBits ∨ bs.length = bitCount i) ∧
      (ws = s.outWords ∨ ws.length = wordCount i) ∧ u = { s with outBits := bs, outWords := ws })
    (h : validateRead store s = .next t) : ValidatedTo i s t := by
  obtain ⟨r, -, -, ⟨k, hk, rfl⟩ | ⟨p, u, -, hu, rfl⟩⟩ := validateRead_next h
  · exact .inl ⟨k, checkResponse_error_isFailure hk, rfl⟩
  · obtain ⟨bs, ws, hbs, hws, rfl⟩ := hstore p u hu
    exact .inr ⟨bs, ws, hbs, hws, rfl⟩

theorem validateRead_storeWords_validatedTo {i : Instr} {s t : State}
    (h : validateRead (storeWords (wordCount i)) s = .next t) : ValidatedTo i s t := by
  refine validateRead_validatedTo (fun p u hu => ?_) h
  obtain ⟨ws, -, hlen, rfl⟩ := storeWords_some hu
  exact ⟨s.outBits, ws, .inl rfl, .inr hlen, rfl⟩

theorem validateOf_validatedTo {i : Instr} {s t : State} (h : validateOf i s = .next t) : ValidatedTo i s t := by
  cases i with
  | readBits k a n =>
    refine validateRead_validatedTo (fun p u hu => ?_) h
    obtain ⟨_, bs, -, -, hlen, rfl⟩ := storeBits_some hu
    exact ⟨bs, s.outWords, .inr hlen, .inl rfl, rfl⟩
  | readW16 k a n => exact validateRead_storeWords_validatedTo h
  | readW32 k a n => exact validateRead_storeWords_validatedTo h
  | writeBits k a n => exact validateAck_validatedTo rfl rfl h
  | forceSet k a n => exact validateAck_validatedTo rfl rfl h
  | forceClear k a n => exact validateAck_validatedTo rfl rfl h
  | writeW16 k a n => exact validateAck_validatedTo rfl rfl h

/-! ### Nothing writes the configuration (10_state R21) -/

@[simp] theorem latchOf_cfg (i : Instr) (d : DataPort) (s : State) : (latchOf i d s).cfg = s.cfg := by
  cases i <;> rfl

theorem accept_cfg {i : Instr} {c : CmdLatch} {s t : State} (h : accept c (latchOf i) s = .next t) : t.cfg = s.cfg := by
  obtain ⟨-, rfl⟩ | ⟨o, -, rfl⟩ := accept_next h
  · rfl
  · exact latchOf_cfg i o.data (takeOffer s)

theorem buildAndTransmit_cfg {i : Instr} {s t : State} (h : buildAndTransmit (buildOf i) s = .next t) :
    t.cfg = s.cfg := by
  obtain ⟨f, -, rfl⟩ | ⟨b, hb, ht⟩ := buildAndTransmit_next h
  · rfl
  · obtain ⟨ra, sp, exp, body, -, rfl⟩ := buildOf_ready_frame hb
    obtain ⟨frame, -, ⟨-, rfl⟩ | ⟨fs, -, rfl⟩ | ⟨fs, -, -, rfl⟩ | ⟨fs, w, ws, -, -, -, rfl⟩ |
      ⟨fs, w, ws, -, -, -, rfl⟩⟩ := transmit_next ht <;> rfl

theorem await_cfg {s t : State} (h : await s = .next t) : t.cfg = s.cfg := by
  obtain ⟨n, -, ⟨-, rfl⟩ | ⟨a, as, -, -, rfl⟩ | ⟨b, as, -, -, rfl⟩⟩ := await_next h <;> rfl

theorem validateOf_cfg {i : Instr} {s t : State} (h : validateOf i s = .next t) : t.cfg = s.cfg := by
  obtain ⟨k, -, rfl⟩ | ⟨bs, ws, -, -, rfl⟩ := validateOf_validatedTo h <;> rfl

theorem deliver_cfg {p : Payload} {s t : State} (h : deliver p s = .next t) : t.cfg = s.cfg := by
  obtain ⟨-, rfl⟩ | ⟨n, -, rfl⟩ := deliver_next h <;> rfl

theorem exec_cfg {i : Instr} {s t : State} (h : exec i s = .next t) : t.cfg = s.cfg := by
  cases hf : s.fsm with
  | idle => exact accept_cfg (exec_idle hf ▸ h)
  | building => exact buildAndTransmit_cfg (exec_building hf ▸ h)
  | awaiting => exact await_cfg (exec_awaiting hf ▸ h)
  | validating => exact validateOf_cfg (exec_validating hf ▸ h)
  | success => exact deliver_cfg (exec_success hf ▸ h)
  | failed => exact deliver_cfg (exec_failed hf ▸ h)

/-- Settles O56: the reset keeps `cfg`, and so does every command's step. -/
theorem noStepChangesTheConfiguration : Obligations.NoStepChangesTheConfiguration := by
  intro s t h
  obtain ⟨-, rfl⟩ | ⟨-, -, ⟨-, rfl⟩ | ⟨i, -, he⟩⟩ := step_next h
  · rfl
  · rfl
  · exact (exec_cfg he).trans (sampled_cfg s)

end Sys2Proof.Machine
end

section
/-! PROOFS, the block's state. Every step keeps the invariant: one lemma for each shape and each way a step can write
it, then one lemma for each sequencer value (10_state R22 to R29). -/

namespace Sys2Proof.Machine

/-! ### The shapes under the updates of a step -/

/-- The data of a running write is latched with its command (10_state R24). -/
theorem latchShape_data {i : Instr} {s : State} (h : latchShape s) (hbusy : s.fsm ≠ .idle)
    (hi : s.cmd = some (commandLatch i)) :
    (i.op = .writeBits → s.wdataBits.length = min i.len.toNat 512) ∧
      (i.op = .writeW16 → s.wdataWords.length = min i.len.toNat 32) := by
  obtain ⟨c, hc, hdata⟩ := h hbusy
  obtain rfl : commandLatch i = c := by simpa [hi] using hc
  exact hdata

/-- The latch's shape is kept by whatever leaves the latches of a busy block alone. -/
theorem latchShape_of_eq {s t : State} (h : latchShape s) (hbusy : s.fsm ≠ .idle) (hcmd : t.cmd = s.cmd)
    (hbits : t.wdataBits = s.wdataBits) (hwords : t.wdataWords = s.wdataWords) : latchShape t := by
  intro _
  rw [hcmd, hbits, hwords]
  exact h hbusy

theorem sentShape_of_not_sent {s : State} (ha : s.fsm ≠ .awaiting) (hv : s.fsm ≠ .validating) : sentShape s :=
  ⟨fun h => absurd h (by simp [ha, hv]), fun h => absurd h hv⟩

/-- A failure drops the payload and leaves the other buffers (60_exceptions R258). -/
theorem bufferShape_fail {s : State} (k : ResKind) (h : bufferShape s) : bufferShape (fail k s) := by
  obtain ⟨htx, hrx, htl, hrl, hwb, hww, -, -⟩ := h
  exact ⟨htx, hrx, htl, hrl, hwb, hww, Nat.zero_le _, Nat.zero_le _⟩

/-- A frame that fits is counted by `tx_len` (10_state R26). -/
theorem bufferShape_of_ready {i : Instr} {s b : State} (hb : buildOf i s = .ready b) (h : bufferShape s) :
    bufferShape b := by
  obtain ⟨-, hrx, -, hrl, hrest⟩ := h
  obtain ⟨ra, sp, exp, body, hlen, rfl⟩ := buildOf_ready_frame hb
  have hne : mkframe body ≠ [] := by simp [mkframe]
  exact ⟨by simpa [txSize] using hlen, hrx, by simp [hne], hrl, hrest⟩

/-- A response of the length it was asked for is counted by `rx_len` (10_state R27). -/
theorem bufferShape_receive {s : State} {r : List Byte} {n : BitVec 8} (h : bufferShape s) (hlen : r.length = n.toNat)
    (hpos : 1 ≤ n.toNat) (hmax : n.toNat ≤ 132) : bufferShape { s with rx := r, rxLen := some n } := by
  obtain ⟨htx, -, htl, -, hrest⟩ := h
  have hne : r ≠ [] := List.ne_nil_of_length_pos (by omega)
  exact ⟨htx, by simpa [rxSize, hlen] using hmax, htl, by simp [hne, hlen], hrest⟩

/-- Payload fields within their sizes can be written by a success (10_state R29). -/
theorem bufferShape_outputs {s : State} {bs : List Bool} {ws : List Word} (h : bufferShape s) (hbs : bs.length ≤ 512)
    (hws : ws.length ≤ 32) : bufferShape { s with outBits := bs, outWords := ws } := by
  obtain ⟨htx, hrx, htl, hrl, hwb, hww, -, -⟩ := h
  exact ⟨htx, hrx, htl, hrl, hwb, hww, hbs, hws⟩

/-- The entry into `FAILED` of a busy block meets the invariant (60_exceptions R258). -/
theorem blockInv_fail {k : ResKind} {s : State} (hk : isFailure k = true) (hcfg : cfgWf s.cfg = true)
    (hbusy : s.fsm ≠ .idle) (hlatch : latchShape s) (hbuf : bufferShape s) : BlockInv (fail k s) :=
  ⟨hcfg, ⟨rfl, hk⟩, latchShape_of_eq hlatch hbusy rfl rfl rfl, bufferShape_fail k hbuf,
    sentShape_of_not_sent (by simp) (by simp)⟩

/-! ### What the resolved-address latch gives a sent request (10_state R25, R27) -/

/-- A read that was sent: its resolved address, and the response length it expects. -/
theorem resolvedShape_read {m : RegMap} {c : CmdLatch} {s : State} (h : resolvedShape m c s)
    (hc : isRead c.op = true) :
    ∃ r n, resolve m c.op c.kind c.addr.toNat c.len.toNat = .ok r ∧ s.raAddr = some ⟨r.lin, BitVec.ofNat 16 r.dev⟩ ∧
      s.rxExp = some n ∧ n.toNat = 4 + 2 * r.bc ∧ r.bc ≤ 64 := by
  have hf : ¬ isForce c.op = true := by revert hc; cases c.op <;> decide
  unfold resolvedShape at h
  rw [if_neg hf] at h
  obtain ⟨r, hr, haddr, -, -, hexp⟩ := h
  obtain ⟨-, -, -, -, hbc, -⟩ := resolve_ok hr
  refine ⟨r, _, hr, haddr, hexp, ?_, hbc⟩
  simp only [responseLength, hc, if_true, readResponseLength, BitVec.toNat_ofNat]
  omega

/-- A write or a force that was sent expects one byte (30_encoding R94). -/
theorem resolvedShape_ack {m : RegMap} {c : CmdLatch} {s : State} (h : resolvedShape m c s)
    (hc : isRead c.op = false) : s.rxExp = some 1 := by
  unfold resolvedShape at h
  split at h
  · exact h.2
  · obtain ⟨r, -, -, -, -, hexp⟩ := h
    simpa [responseLength, hc, ackLength] using hexp

/-- A request that was sent expects a response that is not empty and fits `rx`. -/
theorem resolvedShape_rxExp {m : RegMap} {c : CmdLatch} {s : State} (h : resolvedShape m c s) :
    ∃ n, s.rxExp = some n ∧ 1 ≤ n.toNat ∧ n.toNat ≤ 132 := by
  cases hc : isRead c.op with
  | true =>
    obtain ⟨r, n, -, -, hn, hlen, hbc⟩ := resolvedShape_read h hc
    exact ⟨n, hn, by omega, by omega⟩
  | false => exact ⟨1, resolvedShape_ack h hc, by decide, by decide⟩

/-- What a command that was sent reads fits `out_bits` (40_address_decoder R119). -/
theorem bitCount_le_of_resolvedShape {m : RegMap} {i : Instr} {s : State}
    (h : resolvedShape m (commandLatch i) s) : bitCount i ≤ 512 := by
  cases i with
  | readBits k a n =>
    obtain ⟨r, -, hr, -⟩ := resolvedShape_read h rfl
    obtain ⟨hbits, hbc⟩ := resolve_ok_bits hr rfl
    simp only [bitCount, Instr.len] at hbits ⊢
    omega
  | writeBits | forceSet | forceClear | readW16 | readW32 | writeW16 => exact Nat.zero_le _

/-- What a command that was sent reads fits `out_words` (40_address_decoder R119). -/
theorem wordCount_le_of_resolvedShape {m : RegMap} {i : Instr} {s : State}
    (h : resolvedShape m (commandLatch i) s) : wordCount i ≤ 32 := by
  cases i with
  | readW16 k a n =>
    obtain ⟨r, -, hr, -⟩ := resolvedShape_read h rfl
    exact (resolve_ok_w16 hr rfl).2
  | readW32 k a n =>
    obtain ⟨r, -, hr, -⟩ := resolvedShape_read h rfl
    have hlen := (resolve_ok_w32 hr rfl).2
    simp only [wordCount, Instr.len] at hlen ⊢
    omega
  | readBits | writeBits | forceSet | forceClear | writeW16 => exact Nat.zero_le _

/-- In `AWAITING` and `VALIDATING` the latches are those of the running command. -/
theorem sentShape_resolved {i : Instr} {s : State} (h : sentShape s) (hi : s.cmd = some (commandLatch i))
    (hf : s.fsm = .awaiting ∨ s.fsm = .validating) : resolvedShape s.cfg.regmap (commandLatch i) s := by
  obtain ⟨c, hc, hr⟩ := h.1 hf
  obtain rfl : commandLatch i = c := by simpa [hi] using hc
  exact hr

/-! ### One lemma for each sequencer value -/

theorem accept_keeps_inv {i : Instr} {s t : State} (h : BlockInv s)
    (ht : accept (commandLatch i) (latchOf i) s = .next t) : BlockInv t := by
  obtain ⟨-, rfl⟩ | ⟨o, -, rfl⟩ := accept_next ht
  · exact h
  obtain ⟨hcfg, -, -, hbuf, -⟩ := h
  obtain ⟨htx, hrx, htl, hrl, hwb, hww, hob, how⟩ := hbuf
  refine ⟨?_, ⟨rfl, rfl⟩, fun _ => ⟨_, rfl, ?_⟩, ?_, sentShape_of_not_sent (by simp) (by simp)⟩
  · simpa using hcfg
  · cases i <;> simp [Instr.op, latchOf, Instr.len, maxDataBits, maxDataWords]
  · cases i with
    | writeBits k a n => exact ⟨htx, hrx, htl, hrl, by simp [latchOf, maxDataBits], hww, hob, how⟩
    | writeW16 k a n => exact ⟨htx, hrx, htl, hrl, hwb, by simp [latchOf, maxDataWords], hob, how⟩
    | readBits | forceSet | forceClear | readW16 | readW32 => exact ⟨htx, hrx, htl, hrl, hwb, hww, hob, how⟩

theorem transmit_keeps_inv {i : Instr} {s b t : State} (h : BlockInv s) (hf : s.fsm = .building)
    (hi : s.cmd = some (commandLatch i)) (hb : buildOf i s = .ready b) (ht : transmit s b = .next t) :
    BlockInv t := by
  obtain ⟨hcfg, ⟨hvalid, hkind⟩, hlatch, hbuf, -⟩ := id h
  have hbusy : s.fsm ≠ .idle := by simp [hf]
  have hbufb := bufferShape_of_ready hb hbuf
  have hres := buildOf_ready_resolvedShape hb
  obtain ⟨ra, sp, exp, body, -, rfl⟩ := buildOf_ready_frame hb
  obtain ⟨frame, -, ⟨-, rfl⟩ | ⟨fs, -, rfl⟩ | ⟨fs, -, -, rfl⟩ | ⟨fs, w, ws, -, -, -, rfl⟩ |
    ⟨fs, w, ws, -, -, -, rfl⟩⟩ := transmit_next ht
  · exact h
  · exact blockInv_fail rfl hcfg hbusy hlatch hbufb
  · exact h
  · exact blockInv_fail rfl hcfg hbusy hlatch hbufb
  · rw [hf] at hvalid hkind
    exact ⟨hcfg, ⟨hvalid, hkind⟩, latchShape_of_eq hlatch hbusy rfl rfl rfl, hbufb,
      fun _ => ⟨_, hi, hres⟩, fun hv => absurd hv (by simp)⟩

theorem buildAndTransmit_keeps_inv {i : Instr} {s t : State} (h : BlockInv s) (hf : s.fsm = .building)
    (hi : s.cmd = some (commandLatch i)) (ht : buildAndTransmit (buildOf i) s = .next t) : BlockInv t := by
  obtain ⟨f, hb, rfl⟩ | ⟨b, hb, hb'⟩ := buildAndTransmit_next ht
  · obtain ⟨hcfg, -, hlatch, hbuf, -⟩ := h
    exact blockInv_fail (buildOf_failed_isFailure hb) hcfg (by simp [hf]) hlatch hbuf
  · exact transmit_keeps_inv h hf hi hb hb'

theorem await_keeps_inv {i : Instr} {s t : State} (h : BlockInv s) (hf : s.fsm = .awaiting)
    (hi : s.cmd = some (commandLatch i)) (ht : await s = .next t) : BlockInv t := by
  obtain ⟨hcfg, ⟨hvalid, hkind⟩, hlatch, hbuf, hsent⟩ := id h
  have hbusy : s.fsm ≠ .idle := by simp [hf]
  have hres := sentShape_resolved hsent hi (.inl hf)
  obtain ⟨n, hn, ⟨-, rfl⟩ | ⟨a, as, -, -, rfl⟩ | ⟨r, as, -, hlen, rfl⟩⟩ := await_next ht
  · exact h
  · exact blockInv_fail rfl hcfg hbusy hlatch hbuf
  · obtain ⟨n', hn', hpos, hmax⟩ := resolvedShape_rxExp hres
    obtain rfl : n = n' := by simpa [hn] using hn'
    rw [hf] at hvalid hkind
    exact ⟨hcfg, ⟨hvalid, hkind⟩, latchShape_of_eq hlatch hbusy rfl rfl rfl,
      bufferShape_receive hbuf (by simpa using hlen) hpos hmax, fun _ => ⟨_, hi, hres⟩, fun _ => hn.symm⟩

theorem validateOf_keeps_inv {i : Instr} {s t : State} (h : BlockInv s) (hf : s.fsm = .validating)
    (hi : s.cmd = some (commandLatch i)) (ht : validateOf i s = .next t) : BlockInv t := by
  obtain ⟨hcfg, -, hlatch, hbuf, hsent⟩ := h
  have hbusy : s.fsm ≠ .idle := by simp [hf]
  have hres := sentShape_resolved hsent hi (.inr hf)
  obtain ⟨k, hk, rfl⟩ | ⟨bs, ws, hbs, hws, rfl⟩ := validateOf_validatedTo ht
  · exact blockInv_fail hk hcfg hbusy hlatch hbuf
  · obtain ⟨-, -, -, -, -, -, hob, how⟩ := id hbuf
    have hbits : bs.length ≤ 512 := by
      obtain rfl | hlen := hbs
      · exact hob
      · exact hlen ▸ bitCount_le_of_resolvedShape hres
    have hwords : ws.length ≤ 32 := by
      obtain rfl | hlen := hws
      · exact how
      · exact hlen ▸ wordCount_le_of_resolvedShape hres
    exact ⟨hcfg, ⟨rfl, rfl⟩, latchShape_of_eq hlatch hbusy rfl rfl rfl, bufferShape_outputs (s := s) hbuf hbits hwords,
      sentShape_of_not_sent (by simp) (by simp)⟩

theorem deliver_keeps_inv {p : Payload} {s t : State} (h : BlockInv s) (ht : deliver p s = .next t) : BlockInv t := by
  obtain ⟨-, rfl⟩ | ⟨n, -, rfl⟩ := deliver_next ht
  · exact h
  · obtain ⟨hcfg, -, -, hbuf, -⟩ := h
    exact ⟨hcfg, ⟨rfl, trivial⟩, fun hbusy => absurd rfl hbusy, hbuf, sentShape_of_not_sent (by simp) (by simp)⟩

/-! ### A step -/

/-- The step of a command keeps the invariant, if the command is the latched one while the block is busy. -/
theorem exec_keeps_inv {i : Instr} {s t : State} (h : BlockInv s)
    (hi : s.fsm ≠ .idle → s.cmd = some (commandLatch i)) (ht : exec i s = .next t) : BlockInv t := by
  cases hf : s.fsm with
  | idle => exact accept_keeps_inv h (exec_idle hf ▸ ht)
  | building => exact buildAndTransmit_keeps_inv h hf (hi (by simp [hf])) (exec_building hf ▸ ht)
  | awaiting => exact await_keeps_inv h hf (hi (by simp [hf])) (exec_awaiting hf ▸ ht)
  | validating => exact validateOf_keeps_inv h hf (hi (by simp [hf])) (exec_validating hf ▸ ht)
  | success => exact deliver_keeps_inv h (exec_success hf ▸ ht)
  | failed => exact deliver_keeps_inv h (exec_failed hf ▸ ht)

/-- The reset input is no part of the invariant. -/
theorem blockInv_sampled {s : State} (h : BlockInv s) : BlockInv (sampled s) := h

/-- After a reset the block meets the invariant under any well-formed configuration (10_state R34). -/
theorem blockInv_resetBlock {s : State} (h : cfgWf s.cfg = true) : BlockInv (resetBlock s) :=
  ⟨h, ⟨rfl, trivial⟩, fun hbusy => absurd rfl hbusy, by simp [bufferShape],
    sentShape_of_not_sent (by simp) (by simp)⟩

/-- Settles O52: a reset meets the invariant outright, a wait changes the reset input alone, and a command's step keeps
the invariant at each sequencer value. -/
theorem everyStepKeepsTheInvariant : Obligations.EveryStepKeepsTheInvariant := by
  intro s t h ht
  obtain ⟨-, rfl⟩ | ⟨-, -, ⟨-, rfl⟩ | ⟨i, hi, he⟩⟩ := step_next ht
  · exact blockInv_resetBlock h.1
  · exact blockInv_sampled h
  · exact exec_keeps_inv (blockInv_sampled h) (cmd_of_fetch_command hi) he

/-- Settles O51: the state after reset is a reset of itself, under the well-formed `TESTMAP` (log 2). -/
theorem invariantHoldsAtReset : Obligations.InvariantHoldsAtReset :=
  blockInv_resetBlock (s := State.reset) (by decide)

/-- Settles O8: each field of `State.reset` is the value that the table of R34 gives it. -/
theorem resetStateHoldsTheSpecsValues : Obligations.ResetStateHoldsTheSpecsValues := by
  unfold Obligations.ResetStateHoldsTheSpecsValues
  exact ⟨rfl, rfl, rfl, rfl, rfl, rfl, rfl, rfl, rfl, rfl, rfl, rfl, rfl, rfl, rfl, rfl⟩

end Sys2Proof.Machine
end

section
/-! PROOFS, the block's state. No step faults from a state that meets the invariant: at each sequencer value the fields
that the step reads hold values, and the values it writes fit (10_state R35, 00_scope R10, 20_memory R56). -/

namespace Sys2Proof.Machine

/-! ### Every value a build writes fits its field -/

theorem readBody_length (d : Word) (b : BitVec 7) : (readBody d b).length = 8 := by simp [readBody]

theorem writeBody_length (d : Word) (b : BitVec 7) (p : List Byte) : (writeBody d b p).length = 8 + 2 * p.length := by
  simp [writeBody]; omega

theorem forceBody_length (c : Byte) (d : Word) : (forceBody c d).length = 6 := by simp [forceBody]

/-- A request whose values fit is loaded. -/
theorem loadRequest_ne_fault {l : Option State} {body : List Byte} {n : Nat} {f : Fault} (hl : l.isSome = true)
    (hbody : body.length ≤ 136) (hn : n ≤ 132) : loadRequest l body n ≠ .fault f := by
  obtain ⟨s, rfl⟩ := Option.isSome_iff_exists.mp hl
  simp [loadRequest, loadFrame_eq s (by omega : body.length + 3 ≤ 139) hn]

/-- The resolved address of a command fits `ra_dev` and `ra_bc` under a well-formed map (20_memory R56). -/
theorem latchResolved_isSome {m : RegMap} {op : Op} {k : Kind} {a n : Nat} {r : Resolved} (s : State)
    (hm : regMapWf m = true) (h : resolve m op k a n = .ok r) : (latchResolved r s).isSome = true := by
  obtain ⟨-, -, -, -, hbc, -⟩ := resolve_ok h
  rw [latchResolved, if_pos ⟨resolve_dev_lt hm h, by omega⟩]
  rfl

/-- The resolved address of a force fits `ra_dev` under a well-formed map (20_memory R56). -/
theorem latchResolvedBit_isSome {m : RegMap} {k : Kind} {a : Nat} {r : ResolvedBit} (s : State)
    (hm : regMapWf m = true) (h : resolveForce m k a = .ok r) : (latchResolvedBit r s).isSome = true := by
  rw [latchResolvedBit, if_pos (resolveForce_dev_lt hm h)]
  rfl

theorem buildRead_ne_fault {op : Op} {k : Kind} {a n : Word} {s : State} {f : Fault} (hm : cfgWf s.cfg = true) :
    buildRead op k a n s ≠ .fault f := by
  unfold buildRead
  split
  · simp
  · simp
  · rename_i r hr
    obtain ⟨-, -, -, -, hbc, -⟩ := resolve_ok hr
    exact loadRequest_ne_fault (latchResolved_isSome s hm hr) (by simp [readBody_length])
      (by simp only [readResponseLength]; omega)

/-- The build of a write does not fault when a command that resolves finds its payload, of at most 64 bytes. -/
theorem buildWrite_ne_fault {op : Op} {k : Kind} {a n : Word} {payload : State → Option (List Byte)} {s : State}
    {f : Fault} (hm : cfgWf s.cfg = true)
    (hp : ∀ r, resolve s.cfg.regmap op k a.toNat n.toNat = .ok r → ∃ p, payload s = some p ∧ p.length ≤ 64) :
    buildWrite op k a n payload s ≠ .fault f := by
  unfold buildWrite
  split
  · simp
  · simp
  · rename_i r hr
    obtain ⟨p, hsome, hlen⟩ := hp r hr
    simp only [hsome]
    exact loadRequest_ne_fault (latchResolved_isSome s hm hr) (by rw [writeBody_length]; omega)
      (by simp [ackLength])

theorem buildForce_ne_fault {b : Byte} {k : Kind} {a : Word} {s : State} {f : Fault} (hm : cfgWf s.cfg = true) :
    buildForce b k a s ≠ .fault f := by
  unfold buildForce
  split
  · simp
  · simp
  · rename_i r hr
    exact loadRequest_ne_fault (latchResolvedBit_isSome s hm hr) (by simp [forceBody_length])
      (by simp [ackLength])

/-- The build of a command whose data is latched does not fault under a well-formed map. -/
theorem buildOf_ne_fault {i : Instr} {s : State} {f : Fault} (hm : cfgWf s.cfg = true)
    (hbits : i.op = .writeBits → s.wdataBits.length = min i.len.toNat 512)
    (hwords : i.op = .writeW16 → s.wdataWords.length = min i.len.toNat 32) : buildOf i s ≠ .fault f := by
  cases i with
  | readBits | readW16 | readW32 => exact buildRead_ne_fault hm
  | forceSet | forceClear => exact buildForce_ne_fault hm
  | writeBits k a n =>
    refine buildWrite_ne_fault hm fun r hr => ?_
    have hfit := resolve_ok_bits hr rfl
    have hlen : s.wdataBits.length = min n.toNat 512 := hbits rfl
    exact ⟨_, if_pos (by omega), by rw [packBits_length]; omega⟩
  | writeW16 k a n =>
    refine buildWrite_ne_fault hm fun r hr => ?_
    have hfit := resolve_ok_w16 hr rfl
    have hlen : s.wdataWords.length = min n.toNat 32 := hwords rfl
    exact ⟨_, if_pos (by omega), by rw [wordsToBytes_length]; omega⟩

/-! ### A step that finds what it reads does not fault -/

theorem transmit_ne_fault {before s : State} {frame : List Byte} {f : Fault} (h : requestFrame s = some frame) :
    transmit before s ≠ .fault f := by
  unfold transmit
  rw [h]
  dsimp only
  split
  · simp
  · simp
  · split
    · simp
    · split <;> simp

theorem await_ne_fault {s : State} {n : BitVec 8} {f : Fault} (h : s.rxExp = some n) : await s ≠ .fault f := by
  unfold await
  rw [h]
  dsimp only
  split
  · simp
  · simp
  · split <;> simp

theorem validateAck_ne_fault {s : State} {b : Byte} {bs : List Byte} {f : Fault} (h : received s = some (b :: bs)) :
    validateAck s ≠ .fault f := by
  unfold validateAck
  rw [h]
  dsimp only
  split <;> simp

/-- The validation of a read of `bc` bytes does not fault when the store finds the fields it reads in `bc` bytes. -/
theorem validateRead_ne_fault {store : List Byte → State → Option State} {s : State} {r : List Byte} {bc : Nat}
    {f : Fault} (h : received s = some r) (hlen : r.length = 4 + 2 * bc)
    (hstore : ∀ p, p.length = bc → (store p s).isSome = true) : validateRead store s ≠ .fault f := by
  unfold validateRead
  simp only [h, if_neg (show ¬ r.length < 4 by omega)]
  split
  · simp
  · rename_i p hp
    have hplen := checkResponse_length hp (by omega)
    obtain ⟨u, hu⟩ := Option.isSome_iff_exists.mp (hstore p (by omega))
    simp [hu]

theorem storeBits_isSome {n : Word} {p : List Byte} {s : State} {ra : RaAddr} (hra : s.raAddr = some ra)
    (hp : ra.lin % 8 + n.toNat ≤ 8 * p.length) : (storeBits n p s).isSome = true := by
  have hbits : ∃ bs, unpackBits s.cfg.readBitsOrigin ra.lin n.toNat p = some bs := by
    unfold unpackBits
    split
    · exact (unpackFrom_some p _ _ hp).imp fun bs h => h.1
    · exact (unpackFrom_some p _ _ (by omega)).imp fun bs h => h.1
  obtain ⟨bs, hbs⟩ := hbits
  simp [storeBits, hra, hbs]

theorem storeWords_isSome {n : Nat} {p : List Byte} {s : State} (hp : 2 * n ≤ p.length) :
    (storeWords n p s).isSome = true := by
  obtain ⟨ws, hws, -⟩ := bytesToWords_some n p hp
  simp [storeWords, hws]

/-! ### Validation from a state that meets the invariant -/

/-- In `VALIDATING` the whole of `rx` was received, and it is as long as was expected (10_state R27). -/
theorem received_of_blockInv {s : State} {n : BitVec 8} (h : BlockInv s) (hf : s.fsm = .validating)
    (hn : s.rxExp = some n) : received s = some s.rx ∧ s.rx.length = n.toNat := by
  obtain ⟨-, -, -, hbuf, hsent⟩ := h
  obtain ⟨-, hmax, -, hrl, -⟩ := hbuf
  have hrx : s.rxLen = some n := (hsent.2 hf).trans hn
  have hlen : s.rx.length = n.toNat := by
    rw [hrx] at hrl
    split at hrl
    · simp at hrl
    · obtain rfl : n = BitVec.ofNat 8 s.rx.length := by simpa using hrl
      simp only [rxSize] at hmax
      rw [BitVec.toNat_ofNat]
      omega
  exact ⟨received_all hrx hlen.symm, hlen⟩

/-- The validation of a read does not fault when its store finds what it reads in as many bytes as were resolved. -/
theorem validateRead_ne_fault_of_blockInv {i : Instr} {store : List Byte → State → Option State} {s : State}
    {f : Fault} (h : BlockInv s) (hf : s.fsm = .validating) (hi : s.cmd = some (commandLatch i))
    (hread : isRead i.op = true)
    (hstore : ∀ r, resolve s.cfg.regmap i.op i.kind i.addr.toNat i.len.toNat = .ok r →
      s.raAddr = some ⟨r.lin, BitVec.ofNat 16 r.dev⟩ → ∀ p, p.length = r.bc → (store p s).isSome = true) :
    validateRead store s ≠ .fault f := by
  obtain ⟨-, -, -, -, hsent⟩ := id h
  obtain ⟨r, n, hr, haddr, hexp, hn, -⟩ := resolvedShape_read (sentShape_resolved hsent hi (.inr hf)) hread
  obtain ⟨hrec, hlen⟩ := received_of_blockInv h hf hexp
  exact validateRead_ne_fault hrec (hlen.trans hn) (hstore r hr haddr)

theorem validateAck_ne_fault_of_blockInv {i : Instr} {s : State} {f : Fault} (h : BlockInv s)
    (hf : s.fsm = .validating) (hi : s.cmd = some (commandLatch i)) (hack : isRead i.op = false) :
    validateAck s ≠ .fault f := by
  obtain ⟨-, -, -, -, hsent⟩ := id h
  obtain ⟨hrec, hlen⟩ := received_of_blockInv h hf (resolvedShape_ack (sentShape_resolved hsent hi (.inr hf)) hack)
  obtain ⟨b, bs, hrx⟩ := List.exists_cons_of_length_pos (show 0 < s.rx.length by rw [hlen]; decide)
  exact validateAck_ne_fault (hrx ▸ hrec)

theorem validateOf_ne_fault {i : Instr} {s : State} {f : Fault} (h : BlockInv s) (hf : s.fsm = .validating)
    (hi : s.cmd = some (commandLatch i)) : validateOf i s ≠ .fault f := by
  cases i with
  | readBits k a n =>
    refine validateRead_ne_fault_of_blockInv h hf hi rfl fun r hr haddr p hp => storeBits_isSome haddr ?_
    exact hp ▸ (resolve_ok_bits hr rfl).1
  | readW16 k a n =>
    refine validateRead_ne_fault_of_blockInv h hf hi rfl fun r hr _ p hp => storeWords_isSome ?_
    exact hp ▸ (resolve_ok_w16 hr rfl).1.ge
  | readW32 k a n =>
    refine validateRead_ne_fault_of_blockInv h hf hi rfl fun r hr _ p hp => storeWords_isSome ?_
    have hbc : r.bc = 4 * n.toNat := (resolve_ok_w32 hr rfl).1
    omega
  | writeBits | forceSet | forceClear | writeW16 => exact validateAck_ne_fault_of_blockInv h hf hi rfl

/-! ### A step -/

theorem buildAndTransmit_ne_fault {i : Instr} {s : State} {f : Fault} (h : BlockInv s) (hf : s.fsm = .building)
    (hi : s.cmd = some (commandLatch i)) : buildAndTransmit (buildOf i) s ≠ .fault f := by
  obtain ⟨hcfg, -, hlatch, -, -⟩ := h
  obtain ⟨hbits, hwords⟩ := latchShape_data hlatch (by simp [hf]) hi
  unfold buildAndTransmit
  split
  · simp
  · rename_i g hg
    exact absurd hg (buildOf_ne_fault hcfg hbits hwords)
  · simp
  · rename_i b hb
    obtain ⟨frame, hframe⟩ := requestFrame_of_ready hb
    exact transmit_ne_fault hframe

theorem accept_ne_fault (c : CmdLatch) (l : DataPort → State → State) (s : State) (f : Fault) :
    accept c l s ≠ .fault f := by
  obtain ⟨t, ht⟩ := accept_answers c l s
  simp [ht]

theorem deliver_ne_fault (p : Payload) (s : State) (f : Fault) : deliver p s ≠ .fault f := by
  obtain ⟨t, ht⟩ := deliver_answers p s
  simp [ht]

/-- The step of a command does not fault, if the command is the latched one while the block is busy. -/
theorem exec_ne_fault {i : Instr} {s : State} {f : Fault} (h : BlockInv s)
    (hi : s.fsm ≠ .idle → s.cmd = some (commandLatch i)) : exec i s ≠ .fault f := by
  cases hf : s.fsm with
  | idle => rw [exec_idle hf]; exact accept_ne_fault _ _ s f
  | building => rw [exec_building hf]; exact buildAndTransmit_ne_fault h hf (hi (by simp [hf]))
  | awaiting =>
    obtain ⟨-, -, -, -, hsent⟩ := h
    obtain ⟨n, hn, -⟩ := resolvedShape_rxExp (sentShape_resolved hsent (hi (by simp [hf])) (.inl hf))
    rw [exec_awaiting hf]; exact await_ne_fault hn
  | validating => rw [exec_validating hf]; exact validateOf_ne_fault h hf (hi (by simp [hf]))
  | success => rw [exec_success hf]; exact deliver_ne_fault _ s f
  | failed => rw [exec_failed hf]; exact deliver_ne_fault _ s f

/-- A step that faults found an unwritten latch, or ran a command that faults. -/
theorem step_fault {s : State} {f : Fault} (h : step s = .fault f) :
    fetch s = .unwritten ∨ ∃ i, fetch s = .command i ∧ exec i (sampled s) = .fault f := by
  unfold step at h
  split at h
  · simp at h
  · split at h
    · simp at h
    · split at h
      · simp at h
      · simp at h
      · exact .inl (by assumption)
      · exact .inr ⟨_, by assumption, h⟩

/-- A busy block that meets the invariant has a command latched (10_state R24). -/
theorem fetch_ne_unwritten {s : State} (h : latchShape s) : fetch s ≠ .unwritten := by
  by_cases hf : s.fsm = .idle
  · obtain ⟨hn, -⟩ | ⟨o, -, ⟨e, -, hr⟩ | ⟨i, -, hc⟩⟩ := fetch_idle hf
    · simp [hn]
    · simp [hr]
    · simp [hc]
  · obtain ⟨c, hc, -⟩ := h hf
    obtain ⟨hnone, -⟩ | ⟨c', -, hcmd⟩ := fetch_busy hf
    · simp [hnone] at hc
    · simp [hcmd]

/-- Settles O53: the latch of a busy block is written, and no command's step faults at any sequencer value. -/
theorem noStepFaultsFromAGoodState : Obligations.NoStepFaultsFromAGoodState := by
  intro s f h hs
  obtain ⟨-, -, hlatch, -, -⟩ := id h
  obtain hu | ⟨i, hi, he⟩ := step_fault hs
  · exact fetch_ne_unwritten hlatch hu
  · exact exec_ne_fault (blockInv_sampled h) (cmd_of_fetch_command hi) he

end Sys2Proof.Machine
end

section
/-! PROOFS, the register map. What a well-formed map says of every kind and of the scenarios, and what the decoder gives
under one (20_memory R54 to R57, 40_address_decoder R129). -/

namespace Sys2Proof.Machine

/-! ### What a well-formed entry is -/

theorem wantedBase_eq (k : Kind) : wantedBase k = if k = .inputContact ∨ k = .outputContact then 8 else 10 := by
  cases k <;> decide

/-- The device addresses of linear address `lin` fit 16 bits, in each space that the kind's class reaches (R56). -/
def LinearFits (k : Kind) (e : MapEntry) (lin : Nat) : Prop :=
  match kindClass k with
  | .bit => e.base.toNat + lin / 8 ≤ 0xFFFF ∧ e.fbase.toNat + lin ≤ 0xFFFF
  | .w16 => e.base.toNat + 2 * lin ≤ 0xFFFF
  | .w32 => e.base.toNat + 4 * lin ≤ 0xFFFF

/-- Below a linear address that fits, every linear address fits. -/
theorem linearFits_antitone (k : Kind) (e : MapEntry) : Antitone (LinearFits k e) := by
  intro a b hab hb
  cases hk : kindClass k <;> simp only [LinearFits, hk] at hb ⊢ <;> omega

/-- The check of R56 is that of the one linear address `Lmax`. -/
theorem addressesFit_iff_linearFits (k : Kind) (e : MapEntry) :
    addressesFit k e = true ↔ LinearFits k e (maxLinear k (e.max.toNat - e.min.toNat)) := by
  cases hk : kindClass k <;> simp [addressesFit, LinearFits, hk]

/-- That check speaks of every normalised address, because `Lmax` bounds their linear addresses and is one of them
(log 10). -/
theorem addressesFit_iff_forall (k : Kind) (e : MapEntry) :
    addressesFit k e = true ↔ ∀ n, n ≤ e.max.toNat - e.min.toNat → LinearFits k e (linearise k n) := by
  rw [addressesFit_iff_linearFits]
  constructor
  · intro htop n hn
    exact linearFits_antitone k e (linearise_le_maxLinear hn) htop
  · intro hall
    obtain ⟨n, hn, htop⟩ := maxLinear_reached k (e.max.toNat - e.min.toNat)
    exact htop ▸ hall n hn

theorem entryWf_iff (k : Kind) (e : MapEntry) :
    entryWf k e = true ↔ e.nbase = (if k = .inputContact ∨ k = .outputContact then 8 else 10) ∧
      e.unit = wantedUnit k ∧ e.min.toNat ≤ e.max.toNat ∧
      ∀ n, n ≤ e.max.toNat - e.min.toNat → LinearFits k e (linearise k n) := by
  simp only [entryWf, Bool.and_eq_true, beq_iff_eq, decide_eq_true_eq, wantedBase_eq,
    addressesFit_iff_forall, and_assoc]

/-! ### What a well-formed map is -/

theorem scenariosWf_iff (m : RegMap) :
    scenariosWf m = true ↔
      (m.data.min.toNat ≤ 20 ∧ 20 ≤ m.data.max.toNat ∧ m.data.base.toNat + 2 * (20 - m.data.min.toNat) = 0x1028) ∧
      (m.outputContact.min.toNat ≤ 10 ∧ 10 ≤ m.outputContact.max.toNat ∧
        8 * ((10 - m.outputContact.min.toNat) / 10) + (10 - m.outputContact.min.toNat) % 10 = 8 ∧
        m.outputContact.base.toNat + 1 = 0x00A1) ∧
      m.memoryContact.min.toNat = 0 ∧ 500 ≤ m.memoryContact.max.toNat ∧ m.memoryContact.fbase.toNat = 0x0800 := by
  simp only [scenariosWf, Bool.and_eq_true, beq_iff_eq, decide_eq_true_eq, and_assoc]

theorem regMapWf_iff (m : RegMap) :
    regMapWf m = true ↔ (∀ k, entryWf k (mapEntry m k) = true) ∧ scenariosWf m = true := by
  constructor
  · intro h
    have hentry := regMapWf_entry h
    rw [regMapWf, Bool.and_eq_true] at h
    exact ⟨hentry, h.2⟩
  · intro ⟨hentry, hscen⟩
    simp [regMapWf, hentry, hscen]

/-! ### The scenarios under a well-formed map -/

/-- A command that passes every check of the decoder has the span of its linear address (R125). -/
theorem resolve_eq_ok {m : RegMap} {op : Op} {k : Kind} {a n lin : Nat} (hn : n ≠ 0) (hk : admits op k = true)
    (hlin : linearOf k (mapEntry m k) a = .ok lin) (hbc : (span k (mapEntry m k) lin n).bc ≤ 64)
    (hw : op = .writeBits → lin % 8 = 0) : resolve m op k a n = .ok (span k (mapEntry m k) lin n) := by
  have hspan : checkSpan op (span k (mapEntry m k) lin n) = .ok (span k (mapEntry m k) lin n) := by
    unfold checkSpan maxBytes
    rw [if_neg (by omega), if_neg (by rw [span_lin]; exact fun ⟨hop, hmis⟩ => hmis (hw hop))]
  simp [resolve, hn, hk, hlin, hspan]

/-- A force that passes every check of the decoder names the bit of its linear address (R126). -/
theorem resolveForce_eq_ok {m : RegMap} {k : Kind} {a lin : Nat} (hk : kindClass k = .bit)
    (hlin : linearOf k (mapEntry m k) a = .ok lin) :
    resolveForce m k a = .ok ⟨lin, (mapEntry m k).fbase.toNat + lin⟩ := by
  simp [resolveForce, hk, hlin]

theorem scenarioA_resolves {m : RegMap} (hmin : m.data.min.toNat ≤ 20) (hmax : 20 ≤ m.data.max.toNat)
    (hdev : m.data.base.toNat + 2 * (20 - m.data.min.toNat) = 0x1028) :
    ∃ r, resolve m .readW16 .data 20 2 = .ok r ∧ r.dev = 0x1028 ∧ r.bc = 4 := by
  have hlin : linearOf .data (mapEntry m .data) 20 = .ok (20 - m.data.min.toNat) :=
    linearOf_eq_ok (Nat.zero_le _) hmin hmax
  have hbc : (span .data (mapEntry m .data) (20 - m.data.min.toNat) 2).bc = 4 := by
    simp only [span, kindClass]; omega
  exact ⟨_, resolve_eq_ok (by decide) rfl hlin (by omega) (by simp), hdev, hbc⟩

theorem scenarioB_resolves {m : RegMap} (hmin : m.outputContact.min.toNat ≤ 10) (hmax : 10 ≤ m.outputContact.max.toNat)
    (hoct : linearise .outputContact (10 - m.outputContact.min.toNat) = 8)
    (hdev : m.outputContact.base.toNat + 1 = 0x00A1) :
    ∃ r, resolve m .readBits .outputContact 10 2 = .ok r ∧ r.lin = 8 ∧ r.dev = 0x00A1 ∧ r.bc = 1 := by
  have hlin : linearOf .outputContact (mapEntry m .outputContact) 10 = .ok 8 :=
    hoct ▸ linearOf_eq_ok (Nat.zero_le _) hmin hmax
  have hbc : (span .outputContact (mapEntry m .outputContact) 8 2).bc = 1 := rfl
  exact ⟨_, resolve_eq_ok (by decide) rfl hlin (by omega) (by simp), rfl, hdev, hbc⟩

theorem scenarioC_resolves {m : RegMap} (hmin : m.memoryContact.min.toNat = 0)
    (hmax : 500 ≤ m.memoryContact.max.toNat) (hfbase : m.memoryContact.fbase.toNat = 0x0800) :
    resolveForce m .memoryContact 500 = .ok ⟨500, 0x09F4⟩ := by
  have hlin : linearOf .memoryContact (mapEntry m .memoryContact) 500 = .ok (500 - m.memoryContact.min.toNat) :=
    linearOf_eq_ok (Nat.zero_le _) (hmin ▸ Nat.zero_le _) hmax
  rw [hmin] at hlin
  rw [resolveForce_eq_ok rfl hlin, mapEntry, hfbase]

/-- Settles O42: an entry's check of `Lmax` is a check of every normalised address, the three scenarios resolve from the
equalities of R57, and what the decoder passes lies within the addresses checked. -/
theorem deviceAddressesFitUnderAWellFormedMap : Obligations.DeviceAddressesFitUnderAWellFormedMap := by
  refine ⟨fun m => ?_, fun m hm => ?_, fun m k a hm => ?_⟩
  · rw [regMapWf_iff, scenariosWf_iff]
    exact and_congr_left' (forall_congr' fun k => entryWf_iff k (mapEntry m k))
  · obtain ⟨-, hscen⟩ := (regMapWf_iff m).mp hm
    obtain ⟨⟨hminA, hmaxA, hdevA⟩, ⟨hminB, hmaxB, hoctB, hdevB⟩, hminC, hmaxC, hfbaseC⟩ := (scenariosWf_iff m).mp hscen
    exact ⟨scenarioA_resolves hminA hmaxA hdevA, scenarioB_resolves hminB hmaxB hoctB hdevB,
      scenarioC_resolves hminC hmaxC hfbaseC⟩
  · exact ⟨fun op len r h => Nat.le_of_lt_succ (resolve_dev_lt hm h),
      fun r h => Nat.le_of_lt_succ (resolveForce_dev_lt hm h)⟩

end Sys2Proof.Machine
end

section
/-! PROOFS, the command word. A word is its four fields, so decoding and encoding are inverse; which words spell no
command; and the opcode table's rows as values of the `op` field (30_encoding R80 to R85). -/

namespace Sys2Proof.Machine

/-! ### A word and its fields -/

theorem opField_toNat (w : CmdWord) : (opField w).toNat = w.toNat % 16 := by
  simp [opField]

theorem kindField_toNat (w : CmdWord) : (kindField w).toNat = w.toNat / 16 % 16 := by
  simp [kindField, Nat.shiftRight_eq_div_pow]

/-- The fields cover the word: its value is the sum of the four, each at its place. -/
theorem toNat_eq_sum_fields (w : CmdWord) :
    w.toNat = (lenField w).toNat * 2 ^ 24 + (addrField w).toNat * 2 ^ 8 + (kindField w).toNat * 2 ^ 4 +
      (opField w).toNat := by
  have hw := w.isLt
  simp only [opField_toNat, kindField_toNat, addrField, lenField, BitVec.extractLsb'_toNat,
    Nat.shiftRight_eq_div_pow]
  omega

theorem cmdWord_eq_iff_fields (v w : CmdWord) :
    v = w ↔ opField v = opField w ∧ kindField v = kindField w ∧ addrField v = addrField w ∧
      lenField v = lenField w := by
  constructor
  · rintro rfl
    exact ⟨rfl, rfl, rfl, rfl⟩
  · rintro ⟨hop, hkind, haddr, hlen⟩
    apply BitVec.eq_of_toNat_eq
    rw [toNat_eq_sum_fields v, toNat_eq_sum_fields w, hop, hkind, haddr, hlen]

/-- The fields of a command's word are the command's own, whichever the command. -/
theorem fields_encode (i : Instr) : Laws.EncodedFields.Statement i := fields_of_append i.addr i.len _ _

theorem encode_eq_iff (i : Instr) (w : CmdWord) :
    encode i = w ↔ opCode i.op = opField w ∧ kindCode i.kind = kindField w ∧ i.addr = addrField w ∧
      i.len = lenField w := by
  obtain ⟨hop, hkind, haddr, hlen⟩ := fields_encode i
  rw [cmdWord_eq_iff_fields, hop, hkind, haddr, hlen]

/-! ### The code tables, read backwards -/

theorem opOfCode_eq_some_iff (c : BitVec 4) (o : Op) : opOfCode c = some o ↔ opCode o = c := by
  cases o <;> revert c <;> decide

theorem kindOfCode_eq_some_iff (c : BitVec 4) (k : Kind) : kindOfCode c = some k ↔ kindCode k = c := by
  cases k <;> revert c <;> decide

theorem opOfCode_eq_none_iff (c : BitVec 4) : opOfCode c = none ↔ 7 ≤ c.toNat := by
  revert c; decide

theorem kindOfCode_eq_none_iff (c : BitVec 4) : kindOfCode c = none ↔ 12 ≤ c.toNat := by
  revert c; decide

theorem opCode_injective {o₁ o₂ : Op} (h : opCode o₁ = opCode o₂) : o₁ = o₂ := by
  simpa [opOfCode_opCode] using congrArg opOfCode h

/-! ### The decoder -/

theorem mkInstr_eq_iff (o : Op) (k : Kind) (a n : Word) (i : Instr) :
    mkInstr o k a n = i ↔ o = i.op ∧ k = i.kind ∧ a = i.addr ∧ n = i.len := by
  constructor
  · rintro rfl
    obtain ⟨hop, hkind, haddr, hlen⟩ := latchedInstr_fields ⟨o, k, a, n⟩
    exact ⟨hop.symm, hkind.symm, haddr.symm, hlen.symm⟩
  · rintro ⟨rfl, rfl, rfl, rfl⟩
    exact mkInstr_fields i

/-- A word whose two codes select something decodes (30_encoding R81, R82). -/
theorem decode_of_codes {w : CmdWord} {o : Op} {k : Kind} (ho : opOfCode (opField w) = some o)
    (hk : kindOfCode (kindField w) = some k) : decode w = .ok (mkInstr o k (addrField w) (lenField w)) := by
  simp [decode, ho, hk]

theorem decode_eq_ok_iff (w : CmdWord) (i : Instr) :
    decode w = .ok i ↔ opCode i.op = opField w ∧ kindCode i.kind = kindField w ∧ i.addr = addrField w ∧
      i.len = lenField w := by
  rw [← opOfCode_eq_some_iff, ← kindOfCode_eq_some_iff]
  cases ho : opOfCode (opField w) with
  | none => simp [decode, ho]
  | some o =>
    cases hk : kindOfCode (kindField w) with
    | none => simp [decode, ho, hk]
    | some k =>
      rw [decode_of_codes ho hk, Except.ok.injEq, mkInstr_eq_iff]
      simp [eq_comm]

theorem decode_eq_error_iff (w : CmdWord) :
    (∃ e, decode w = .error e) ↔ opOfCode (opField w) = none ∨ kindOfCode (kindField w) = none := by
  cases ho : opOfCode (opField w) with
  | none => simp [decode, ho]
  | some o =>
    cases hk : kindOfCode (kindField w) with
    | none => simp [decode, ho, hk]
    | some k => simp [decode_of_codes ho hk]

/-- Which words spell no command (30_encoding R85). -/
theorem decode_eq_error_iff_reserved (w : CmdWord) :
    (∃ e, decode w = .error e) ↔ 7 ≤ w.toNat % 16 ∨ 12 ≤ w.toNat / 16 % 16 := by
  rw [decode_eq_error_iff, opOfCode_eq_none_iff, kindOfCode_eq_none_iff, opField_toNat, kindField_toNat]

/-! ### The rows of the opcode table -/

/-- The row of an operation: the words whose `op` field is its code. -/
def rowOf (o : Op) : OpcodeRow := ⟨o, 0xF, (opCode o).setWidth 40⟩

theorem eq_rowOf_of_mem : ∀ r ∈ opcodeRows, r = rowOf r.op := by decide

theorem rowOf_covers_iff (o : Op) (w : CmdWord) : (rowOf o).covers w = true ↔ opField w = opCode o := by
  have hmask : (w &&& 0xF).toNat = (opField w).toNat := by
    rw [opField_toNat, BitVec.toNat_and]
    exact Nat.and_two_pow_sub_one_eq_mod w.toNat 4
  have hcode : ((opCode o).setWidth 40).toNat = (opCode o).toNat := BitVec.toNat_setWidth_of_le (by decide)
  simp only [OpcodeRow.covers, rowOf, beq_iff_eq, ← BitVec.toNat_inj, hmask, hcode]

/-! ### The statements -/

/-- Settles O1: either side says that the four fields of the word are the command's. -/
theorem decodeAndEncodeAgree : Obligations.DecodeAndEncodeAgree := by
  intro w i
  rw [decode_eq_ok_iff, encode_eq_iff]

/-- Settles O2: a word is the sum of its fields, and those of a command's word are the command's. -/
theorem commandWordIsTheSumOfItsFields : Obligations.CommandWordIsTheSumOfItsFields := by
  intro i
  obtain ⟨hop, hkind, haddr, hlen⟩ := fields_encode i
  rw [toNat_eq_sum_fields, hop, hkind, haddr, hlen]

/-- Settles O3: the decoder fails where a code table gives nothing, and a fetch in `IDLE` of such a word is refused. -/
theorem reservedWordsAreRefused : Obligations.ReservedWordsAreRefused := by
  refine ⟨decode_eq_error_iff_reserved, fun s o hf hr hcfg ho hres => ?_⟩
  obtain ⟨e, he⟩ := (decode_eq_error_iff_reserved o.word).mpr hres
  have hfetch : fetch s = .reserved := by simp [fetch, hf, ho, he]
  simp [step, hr, hcfg, hfetch]

/-- Settles O4: a row covers a word exactly when the `op` field is the code of the row's operation, and no two
operations share a code. -/
theorem opcodeRowsDecodeToTheirOperations : Obligations.OpcodeRowsDecodeToTheirOperations := by
  refine ⟨fun r₁ h₁ r₂ h₂ w hc₁ hc₂ => ?_, fun r h w hc hkind => ?_⟩
  · rw [eq_rowOf_of_mem r₁ h₁, rowOf_covers_iff] at hc₁
    rw [eq_rowOf_of_mem r₂ h₂, rowOf_covers_iff] at hc₂
    rw [eq_rowOf_of_mem r₁ h₁, eq_rowOf_of_mem r₂ h₂, opCode_injective (hc₁.symm.trans hc₂)]
  · rw [eq_rowOf_of_mem r h, rowOf_covers_iff] at hc
    have hop : opOfCode (opField w) = some r.op := hc ▸ opOfCode_opCode r.op
    have hsome : kindOfCode (kindField w) ≠ none := by
      rw [Ne, kindOfCode_eq_none_iff, kindField_toNat]
      omega
    obtain ⟨k, hk⟩ := Option.ne_none_iff_exists'.mp hsome
    exact ⟨_, decode_of_codes hop hk, ((mkInstr_eq_iff _ _ _ _ _).mp rfl).1.symm⟩

/-- Settles O5: each word is the encoding of its command, so it decodes to it. -/
theorem writtenOutWordsDecode : Obligations.WrittenOutWordsDecode := by
  have decodes : ∀ (w : CmdWord) (i : Instr), encode i = w → decode w = .ok i :=
    fun w i => (decodeAndEncodeAgree w i).mpr
  exact ⟨decodes _ _ rfl, decodes _ _ rfl, decodes _ _ rfl, decodes _ _ rfl, decodes _ _ rfl, decodes _ _ rfl,
    decodes _ _ rfl, decodes _ _ rfl, decodes _ _ rfl, decodes _ _ rfl, decodes _ _ rfl, decodes _ _ rfl,
    decodes _ _ rfl⟩

end Sys2Proof.Machine
end

section
/-! PROOFS, the frames. The lengths of the request and of the response that a sent command fixes, and the response that
passes every check (30_encoding R88 to R94, 42_transactions R175). -/

namespace Sys2Proof.Machine

/-! ### Lengths -/

/-- The bits of an aligned write fill its bytes (40_address_decoder R127, 43_payload_codec R223). -/
theorem resolve_ok_writeBits {m : RegMap} {k : Kind} {a n : Nat} {r : Resolved}
    (h : resolve m .writeBits k a n = .ok r) : r.bc = (n + 7) / 8 := by
  obtain ⟨hn, hk, ⟨lin, -, rfl⟩, -, -, halign⟩ := resolve_ok h
  have hlin : lin % 8 = 0 := by simpa using halign rfl
  simp only [span, kindClass_of_admits hk, opClass]
  omega

/-- The frame of a read or a write is as long as the table says, STX and checksum counted (30_encoding R88, R89). -/
theorem bodyOf_length {i : Instr} {m : RegMap} {s : State} {r : Resolved} (d : Word) (b : BitVec 7)
    (hf : isForce i.op = false) (hr : resolve m i.op i.kind i.addr.toNat i.len.toNat = .ok r)
    (hbits : i.op = .writeBits → s.wdataBits.length = i.len.toNat)
    (hwords : i.op = .writeW16 → s.wdataWords.length = i.len.toNat) :
    (bodyOf i d b s).length + 3 = requestLength i.op r.bc := by
  cases i with
  | readBits | readW16 | readW32 => simp [bodyOf, readBody_length, requestLength, Instr.op]
  | writeBits k a n =>
    have hbc : r.bc = (n.toNat + 7) / 8 := resolve_ok_writeBits hr
    have hdata : s.wdataBits.length = n.toNat := hbits rfl
    simp only [bodyOf, writeBody_length, packBits_length, requestLength, Instr.op, hdata, hbc]
    omega
  | writeW16 k a n =>
    have hbc : r.bc = 2 * n.toNat := (resolve_ok_w16 hr rfl).1
    have hdata : s.wdataWords.length = n.toNat := hwords rfl
    simp only [bodyOf, writeBody_length, wordsToBytes_length, requestLength, Instr.op, hdata, hbc]
    omega
  | forceSet | forceClear => simp [Instr.op, isForce] at hf

/-- A state that holds the lengths of the table for an operation (30_encoding R94): what `bc` is, and the three fields
that follow from it. -/
def TableLengths (op : Op) (t : State) : Prop :=
  ∃ bc, (isForce op = false → ∃ sp, t.raSpan = some sp ∧ sp.bc.toNat = bc ∧ 1 ≤ bc ∧ bc ≤ 64) ∧
    t.tx.length = requestLength op bc ∧ t.txLen = some (BitVec.ofNat 8 (requestLength op bc)) ∧
    t.rxExp = some (BitVec.ofNat 8 (responseLength op bc))

/-- A build that is ready wrote the lengths of the table. -/
theorem buildOf_ready_tableLengths {i : Instr} {s b : State} (h : buildOf i s = .ready b) : TableLengths i.op b := by
  cases hf : isForce i.op with
  | true =>
    obtain ⟨r, body, -, -, -, hlen, rfl⟩ := buildOf_ready_force hf h
    have hreq : requestLength i.op 0 = 9 ∧ responseLength i.op 0 = 1 := by
      revert hf; cases i.op <;> decide
    exact ⟨0, by simp [hf], by rw [mkframe_length, hlen, hreq.1], by rw [hreq.1]; rfl, by rw [hreq.2]; rfl⟩
  | false =>
    obtain ⟨r, body, n, hr, -, rfl, -, rfl, hbits, hwords, rfl⟩ := buildOf_ready hf h
    obtain ⟨-, -, -, hpos, hmax, -⟩ := resolve_ok hr
    have hlen := bodyOf_length (BitVec.ofNat 16 r.dev) (BitVec.ofNat 7 r.bc) hf hr hbits hwords
    have hbc : (BitVec.ofNat 7 r.bc).toNat = r.bc := by rw [BitVec.toNat_ofNat]; omega
    exact ⟨r.bc, fun _ => ⟨_, rfl, hbc, hpos, hmax⟩, by rw [mkframe_length, hlen], by rw [hlen], rfl⟩

/-- Only the last of transmit's branches reaches `AWAITING`: it changes nothing that the build wrote. -/
theorem transmit_awaiting {before s t : State} (hb : before.fsm ≠ .awaiting) (h : transmit before s = .next t)
    (ht : t.fsm = .awaiting) :
    t.raSpan = s.raSpan ∧ t.tx = s.tx ∧ t.txLen = s.txLen ∧ t.rxExp = s.rxExp := by
  obtain ⟨frame, -, ⟨-, rfl⟩ | ⟨fs, -, rfl⟩ | ⟨fs, -, -, rfl⟩ | ⟨fs, w, ws, -, -, -, rfl⟩ |
    ⟨fs, w, ws, -, -, -, rfl⟩⟩ := transmit_next h
  · exact absurd ht hb
  · simp at ht
  · exact absurd ht hb
  · simp at ht
  · exact ⟨rfl, rfl, rfl, rfl⟩

/-- Settles O23: a command that reaches `AWAITING` was built, and its build wrote the lengths of the table. -/
theorem frameLengthsAreThoseOfTheTable : Obligations.FrameLengthsAreThoseOfTheTable := by
  intro i s t hf h ht
  rw [exec_building hf] at h
  obtain ⟨f, -, rfl⟩ | ⟨b, hb, hsent⟩ := buildAndTransmit_next h
  · simp at ht
  · obtain ⟨hspan, htx, hlen, hexp⟩ := transmit_awaiting (by simp [hf]) hsent ht
    rw [hspan, htx, hlen, hexp]
    exact buildOf_ready_tableLengths hb

/-! ### A correct response -/

/-- Decoding what the encoder gives gives it back, under either setting of `HEX_ACCEPT_LOWER` (41_frame_codec R147). -/
theorem unhexs_hexs (lower : Bool) (s : List Byte) : unhexs lower (hexs s) = some s := by
  induction s with
  | nil => rfl
  | cons b s ih => rw [hexs_cons, unhexs_hex2_append, ih]; rfl

/-- A received field that is the two characters of the span's sum matches under both settings of `CHECKSUM_MATCH`. -/
theorem csMatch_of_hex2 {m : ChecksumMatch} {r : List Byte} (h : checksumField r = hex2 (sum8 (checkedSpan r))) :
    csMatch m r = true := by
  rw [csMatch, h]
  cases m <;> simp [hex2]

/-- The parts of a response laid out as 30_encoding R91 says. -/
theorem readResponse_parts (p : List Byte) :
    checkedSpan (readResponse p) = hexs p ++ [etx] ∧
      checksumField (readResponse p) = hex2 (sum8 (hexs p ++ [etx])) ∧ dataChars (readResponse p) = hexs p ∧
      markersOk (readResponse p) = true := by
  have hr : readResponse p = stx :: hexs p ++ [etx,
      hexchar ((sum8 (hexs p ++ [etx])).extractLsb' 4 4), hexchar ((sum8 (hexs p ++ [etx])).extractLsb' 0 4)] := by
    simp [readResponse, hex2]
  obtain ⟨hspan, hfield, hdata, hstx, hetx⟩ := response_parts stx etx
    (hexchar ((sum8 (hexs p ++ [etx])).extractLsb' 4 4)) (hexchar ((sum8 (hexs p ++ [etx])).extractLsb' 0 4)) (hexs p)
  rw [hr]
  exact ⟨hspan, hfield, hdata, by rw [markersOk, hstx, hetx]; rfl⟩

/-- The checksum field is that of the span, the markers stand in their places, and the data characters decode to the
bytes they encode. -/
theorem checkResponse_readResponse (c : Cfg) (p : List Byte) : checkResponse c (readResponse p) = .ok p := by
  obtain ⟨hspan, hfield, hdata, hmarkers⟩ := readResponse_parts p
  have hmatch : csMatch c.checksumMatch (readResponse p) = true := csMatch_of_hex2 (by rw [hfield, hspan])
  exact checkResponse_eq_ok hmatch (fun _ => hmarkers) (by rw [hdata, unhexs_hexs])

/-- Settles O29: the response written out there is `readResponse p`, which passes every check. -/
theorem correctResponsePassesEveryCheck : Obligations.CorrectResponsePassesEveryCheck :=
  checkResponse_readResponse

end Sys2Proof.Machine
end

section
/-! PROOFS, the refusals. Of the parts of a command's step only the build refuses, so a step from a state that meets the
invariant is refused for a reserved word or a length of 0 alone (30_encoding R85, 40_address_decoder R121). -/

namespace Sys2Proof.Machine

/-! ### The parts of a step that refuse nothing -/

theorem accept_ne_refused (c : CmdLatch) (l : DataPort → State → State) (s : State) (x : Refusal) :
    accept c l s ≠ .refused x := by
  obtain ⟨t, ht⟩ := accept_answers c l s
  simp [ht]

theorem deliver_ne_refused (p : Payload) (s : State) (x : Refusal) : deliver p s ≠ .refused x := by
  obtain ⟨t, ht⟩ := deliver_answers p s
  simp [ht]

theorem transmit_ne_refused (before s : State) (x : Refusal) : transmit before s ≠ .refused x := by
  unfold transmit
  split
  · simp
  · split
    · simp
    · simp
    · split
      · simp
      · dsimp only
        split <;> simp

theorem await_ne_refused (s : State) (x : Refusal) : await s ≠ .refused x := by
  unfold await
  split
  · simp
  · split
    · simp
    · simp
    · dsimp only
      split <;> simp

theorem validateRead_ne_refused (store : List Byte → State → Option State) (s : State) (x : Refusal) :
    validateRead store s ≠ .refused x := by
  unfold validateRead
  split
  · simp
  · split
    · simp
    · split
      · simp
      · split <;> simp

theorem validateAck_ne_refused (s : State) (x : Refusal) : validateAck s ≠ .refused x := by
  unfold validateAck
  split
  · split <;> simp
  · simp
  · simp

theorem validateOf_ne_refused (i : Instr) (s : State) (x : Refusal) : validateOf i s ≠ .refused x := by
  cases i with
  | readBits | readW16 | readW32 => exact validateRead_ne_refused _ s x
  | writeBits | forceSet | forceClear | writeW16 => exact validateAck_ne_refused s x

/-! ### A command's step and a step -/

/-- A build and transmit step that refuses is one whose build refuses. -/
theorem buildAndTransmit_refused {build : State → Built} {s : State} {x : Refusal}
    (h : buildAndTransmit build s = .refused x) : build s = .refused x := by
  unfold buildAndTransmit at h
  split at h
  · rename_i y hy
    obtain rfl : y = x := by simpa using h
    exact hy
  · simp at h
  · simp at h
  · exact absurd h (transmit_ne_refused _ _ x)

/-- A command's step refuses length 0 of a command that is no force, in `BUILDING`, and nothing else (R121). -/
theorem exec_refused {i : Instr} {s : State} {x : Refusal} (h : exec i s = .refused x) :
    s.fsm = .building ∧ x = .zeroLength ∧ isForce i.op = false ∧ i.len.toNat = 0 := by
  cases hf : s.fsm with
  | idle => exact absurd (exec_idle hf ▸ h) (accept_ne_refused _ _ s x)
  | building => exact ⟨rfl, buildOf_refused (buildAndTransmit_refused (exec_building hf ▸ h))⟩
  | awaiting => exact absurd (exec_awaiting hf ▸ h) (await_ne_refused s x)
  | validating => exact absurd (exec_validating hf ▸ h) (validateOf_ne_refused i s x)
  | success => exact absurd (exec_success hf ▸ h) (deliver_ne_refused _ s x)
  | failed => exact absurd (exec_failed hf ▸ h) (deliver_ne_refused _ s x)

/-- Everything a step can refuse: an ill-formed configuration, a reserved word, or what its command's step refuses. -/
theorem step_refused {s : State} {x : Refusal} (h : step s = .refused x) :
    (x = .illFormedConfig ∧ cfgWf s.cfg = false) ∨ (x = .reservedEncoding ∧ fetch s = .reserved) ∨
      ∃ i, fetch s = .command i ∧ exec i (sampled s) = .refused x := by
  unfold step at h
  split at h
  · simp at h
  · split at h
    · rename_i hcfg
      exact .inl ⟨by simpa using h.symm, by simpa using hcfg⟩
    · split at h
      · simp at h
      · rename_i hres
        exact .inr (.inl ⟨by simpa using h.symm, hres⟩)
      · simp at h
      · exact .inr (.inr ⟨_, by assumption, h⟩)

/-- A reserved word is fetched in `IDLE` alone, from the command port. -/
theorem fetch_reserved {s : State} (h : fetch s = .reserved) :
    s.fsm = .idle ∧ ∃ o e, offered s = some o ∧ decode o.word = .error e := by
  by_cases hf : s.fsm = .idle
  · obtain ⟨hn, -⟩ | ⟨o, ho, ⟨e, he, -⟩ | ⟨i, -, hc⟩⟩ := fetch_idle hf
    · simp [hn] at h
    · exact ⟨hf, o, e, ho, he⟩
    · simp [hc] at h
  · obtain ⟨-, hu⟩ | ⟨c, -, hc⟩ := fetch_busy hf
    · simp [hu] at h
    · simp [hc] at h

/-- Settles O54: the configuration is well-formed by the invariant, so what is left is a reserved word, or length 0 of
the command latched. -/
theorem onlyTwoInputsAreRefused : Obligations.OnlyTwoInputsAreRefused := by
  intro s x hinv h
  obtain ⟨hcfg, -⟩ := hinv
  obtain ⟨-, hbad⟩ | ⟨rfl, hres⟩ | ⟨i, hi, he⟩ := step_refused h
  · simp [hcfg] at hbad
  · exact .inl ⟨rfl, fetch_reserved hres⟩
  · obtain ⟨hf, rfl, hforce, hlen⟩ := exec_refused he
    have hbuild : s.fsm = .building := hf
    have hcmd := cmd_of_fetch_command hi (by simp [hbuild])
    exact .inr ⟨rfl, hbuild, _, hcmd, hforce, BitVec.eq_of_toNat_eq hlen⟩

end Sys2Proof.Machine
end

section
/-! PROOFS, the address decoder. The order of its checks, the spans of the three classes with the 64-byte ceiling, the
converter, and what the machine makes of a length of 0 and of a force's length (40_address_decoder R111 to R128). -/

namespace Sys2Proof.Machine

/-! ### The classes of kinds (20_memory R51, 30_encoding R98) -/

theorem kindClass_eq_bit_iff (k : Kind) :
    kindClass k = .bit ↔ k ∈ [Kind.state, .inputContact, .outputContact, .timerContact, .contact, .memoryContact,
      .memorySpecial] := by
  cases k <;> decide

theorem kindClass_eq_w32_iff (k : Kind) : kindClass k = .w32 ↔ k = .counter32 := by
  cases k <;> decide

theorem admits_iff (op : Op) (k : Kind) : admits op k = true ↔ kindClass k = opClass op := by
  simp [admits]

/-! ### The converter (R114, R115) -/

theorem octalStyle_iff (k : Kind) : octalStyle k = true ↔ k = .inputContact ∨ k = .outputContact := by
  cases k <;> decide

theorem linearise_contact {k : Kind} (h : k = .inputContact ∨ k = .outputContact) (n : Nat) :
    linearise k n = 8 * (n / 10) + n % 10 := if_pos ((octalStyle_iff k).mpr h)

theorem linearise_other {k : Kind} (hi : k ≠ .inputContact) (ho : k ≠ .outputContact) (n : Nat) :
    linearise k n = n :=
  if_neg fun h => ((octalStyle_iff k).mp h).elim hi ho

/-- Settles O41: quotient and remainder by 10 of `n` are read off `8 * (n / 10) + n % 10` where the remainder is below
8. -/
theorem octalStyleConverterIsOneToOne : Obligations.OctalStyleConverterIsOneToOne := by
  refine ⟨fun k n hk => linearise_contact hk n, fun k q d hk hd => ?_, fun k a b hk ha hb hab => ?_,
    fun k n hi ho => linearise_other hi ho n, rfl, rfl, rfl, rfl⟩
  · rw [linearise_contact hk]
    omega
  · rw [linearise_contact hk, linearise_contact hk] at hab
    omega

/-! ### What each check of the decoder answers, in their order (R111, R112, R121, R124) -/

theorem linearOf_of_digit {k : Kind} {e : MapEntry} {a : Nat} (h : a % 10 > e.nbase - 1) :
    linearOf k e a = .fail .incorrectAddressFormat := if_pos h

theorem linearOf_of_range {k : Kind} {e : MapEntry} {a : Nat} (hd : a % 10 ≤ e.nbase - 1)
    (h : a < e.min.toNat ∨ a > e.max.toNat) : linearOf k e a = .fail .addressOutOfRange := by
  rw [linearOf, if_neg (Nat.not_lt.mpr hd), if_pos h]

@[simp] theorem resolve_zeroLength (m : RegMap) (op : Op) (k : Kind) (a : Nat) :
    resolve m op k a 0 = .refuse .zeroLength := if_pos rfl

theorem resolve_of_not_admits {m : RegMap} {op : Op} {k : Kind} {a n : Nat} (hn : n ≠ 0) (hk : admits op k = false) :
    resolve m op k a n = .fail .incorrectDataType := by
  simp [resolve, hn, hk]

theorem resolve_of_linearOf_fail {m : RegMap} {op : Op} {k : Kind} {a n : Nat} {f : ResKind} (hn : n ≠ 0)
    (hk : admits op k = true) (hlin : linearOf k (mapEntry m k) a = .fail f) : resolve m op k a n = .fail f := by
  simp [resolve, hn, hk, hlin]

theorem resolve_of_linearOf_ok {m : RegMap} {op : Op} {k : Kind} {a n lin : Nat} (hn : n ≠ 0)
    (hk : admits op k = true) (hlin : linearOf k (mapEntry m k) a = .ok lin) :
    resolve m op k a n = checkSpan op (span k (mapEntry m k) lin n) := by
  simp [resolve, hn, hk, hlin]

/-- A command that the decoder fails is no refused one. -/
theorem length_ne_zero_of_resolve_fail {m : RegMap} {op : Op} {k : Kind} {a n : Nat} {f : ResKind}
    (h : resolve m op k a n = .fail f) : n ≠ 0 := by
  rintro rfl
  simp at h

theorem resolveForce_of_ne_bit {m : RegMap} {k : Kind} {a : Nat} (hk : kindClass k ≠ .bit) :
    resolveForce m k a = .fail .incorrectDataType := if_pos hk

theorem resolveForce_of_linearOf_fail {m : RegMap} {k : Kind} {a : Nat} {f : ResKind} (hk : kindClass k = .bit)
    (hlin : linearOf k (mapEntry m k) a = .fail f) : resolveForce m k a = .fail f := by
  simp [resolveForce, hk, hlin]

/-- Settles O38: both decoder functions answer as the first check that fails does. -/
theorem kindThenDigitThenRangeAreChecked : Obligations.KindThenDigitThenRangeAreChecked := by
  intro m op k a n hn
  refine ⟨kindClass_eq_bit_iff k, kindClass_eq_w32_iff k, admits_iff op k, resolve_of_not_admits hn, ?_, ?_,
    resolveForce_of_ne_bit, ?_, ?_, ?_⟩
  · exact fun hk hd => resolve_of_linearOf_fail hn hk (linearOf_of_digit hd)
  · exact fun hk hd hr => resolve_of_linearOf_fail hn hk (linearOf_of_range hd hr)
  · exact fun hk hd => resolveForce_of_linearOf_fail hk (linearOf_of_digit hd)
  · exact fun hk hd hr => resolveForce_of_linearOf_fail hk (linearOf_of_range hd hr)
  · exact fun hk hd hmin hmax => resolveForce_eq_ok hk (linearOf_eq_ok hd hmin hmax)

/-! ### Only five kinds fail a command before any I/O (R128) -/

theorem linearOf_fail_preIo {k : Kind} {e : MapEntry} {a : Nat} {f : ResKind} (h : linearOf k e a = .fail f) :
    preIo f = true ∧ f ≠ .tooManyBytes ∧ f ≠ .addressMisaligned := by
  obtain ⟨rfl, -⟩ | ⟨rfl, -⟩ := linearOf_fail h <;> decide

theorem checkSpan_fail_preIo {op : Op} {r : Resolved} {f : ResKind} (h : checkSpan op r = .fail f) :
    preIo f = true := by
  obtain ⟨rfl, -⟩ | ⟨rfl, -⟩ := checkSpan_fail h <;> rfl

theorem resolve_fail_preIo {m : RegMap} {op : Op} {k : Kind} {a n : Nat} {f : ResKind}
    (h : resolve m op k a n = .fail f) : preIo f = true := by
  obtain ⟨rfl, -⟩ | ⟨-, hl⟩ | ⟨-, lin, -, hs⟩ := resolve_fail h
  · rfl
  · exact (linearOf_fail_preIo hl).1
  · exact checkSpan_fail_preIo hs

/-- A force has no byte count and no alignment to fail on (R120). -/
theorem resolveForce_fail_preIo {m : RegMap} {k : Kind} {a : Nat} {f : ResKind} (h : resolveForce m k a = .fail f) :
    preIo f = true ∧ f ≠ .tooManyBytes ∧ f ≠ .addressMisaligned := by
  obtain ⟨rfl, -⟩ | ⟨-, hl⟩ := resolveForce_fail h
  · decide
  · exact linearOf_fail_preIo hl

/-- Settles O36: a refusal would be of length 0, and a failure is of a kind before any I/O. -/
theorem decoderAnswersEveryAdmittedCommand : Obligations.DecoderAnswersEveryAdmittedCommand := by
  refine ⟨fun m op k a n hn => ?_, fun m k a => ?_⟩
  · cases h : resolve m op k a n with
    | ok r => exact .inl ⟨r, rfl⟩
    | fail f => exact .inr ⟨f, rfl, resolve_fail_preIo h⟩
    | refuse x => exact absurd (resolve_refuse h).1 hn
  · cases h : resolveForce m k a with
    | ok r => exact .inl ⟨r, rfl⟩
    | fail f => exact .inr ⟨f, rfl, resolveForce_fail_preIo h⟩
    | refuse x => exact absurd h (resolveForce_ne_refuse m k a x)

/-! ### The span of a command, by class (R116 to R118) -/

theorem span_bit {k : Kind} (hk : kindClass k = .bit) (e : MapEntry) (lin n : Nat) :
    span k e lin n =
      ⟨lin, e.base.toNat + lin / 8, lin / 8, (lin + n - 1) / 8, (lin + n - 1) / 8 - lin / 8 + 1⟩ := by
  simp only [span, hk]

theorem span_w16 {k : Kind} (hk : kindClass k = .w16) (e : MapEntry) (lin : Nat) {n : Nat} (hn : n ≠ 0) :
    span k e lin n = ⟨lin, e.base.toNat + 2 * lin, lin, lin + 2 * n - 1, 2 * n⟩ := by
  have hbc : lin + 2 * n - 1 - lin + 1 = 2 * n := by omega
  simp only [span, hk, hbc]

theorem span_w32 {k : Kind} (hk : kindClass k = .w32) (e : MapEntry) (lin : Nat) {n : Nat} (hn : n ≠ 0) :
    span k e lin n = ⟨lin, e.base.toNat + 4 * lin, lin, lin + 4 * n - 1, 4 * n⟩ := by
  have hbc : lin + 4 * n - 1 - lin + 1 = 4 * n := by omega
  simp only [span, hk, hbc]

/-- Settles O37: what the decoder passes is the span of the linear address of an address in range, and a span is that of
its class. -/
theorem resolvedAddressFollowsTheClassFormulas : Obligations.ResolvedAddressFollowsTheClassFormulas := by
  intro m op k a n r h
  obtain ⟨hn, -, ⟨lin, hlin, rfl⟩, -⟩ := resolve_ok h
  obtain ⟨-, hmin, hmax, hlin⟩ := linearOf_ok hlin
  refine ⟨⟨hmin, hmax, (span_lin ..).trans hlin⟩, fun hk => ?_, fun hk => ?_, fun hk => ?_⟩
  · rw [span_bit hk]
    exact ⟨rfl, rfl, rfl, rfl,
      fun j hfrom hto => ⟨Nat.div_le_div_right hfrom, Nat.div_le_div_right (Nat.le_sub_one_of_lt hto)⟩⟩
  · rw [span_w16 hk _ _ hn]
    exact ⟨rfl, rfl, rfl, rfl⟩
  · rw [span_w32 hk _ _ hn]
    exact ⟨rfl, rfl, rfl, rfl⟩

/-! ### The ceiling of 64 bytes (R119) -/

/-- The longest length whose span from linear address `lin` keeps to 64 bytes (R119). -/
def lengthBound (k : Kind) (lin : Nat) : Nat :=
  match kindClass k with
  | .bit => 512 - lin % 8
  | .w16 => 32
  | .w32 => 16

theorem span_bc_le_iff {k : Kind} (e : MapEntry) (lin : Nat) {n : Nat} (hn : n ≠ 0) :
    (span k e lin n).bc ≤ 64 ↔ n ≤ lengthBound k lin := by
  cases hk : kindClass k with
  | bit => simp only [span_bit hk, lengthBound, hk]; omega
  | w16 => simp only [span_w16 hk _ _ hn, lengthBound, hk]; omega
  | w32 => simp only [span_w32 hk _ _ hn, lengthBound, hk]; omega

theorem checkSpan_of_tooMany {op : Op} {r : Resolved} (h : 64 < r.bc) : checkSpan op r = .fail .tooManyBytes :=
  if_pos h

/-- Settles O39: a length is within the bound exactly when its span keeps to the ceiling. -/
theorem byteCeilingIsABoundOnTheLength : Obligations.ByteCeilingIsABoundOnTheLength := by
  intro m op k a n lin hn hk _ hlin
  have hceiling : (span k (mapEntry m k) lin n).bc ≤ 64 ↔ n ≤ lengthBound k lin := span_bc_le_iff _ lin hn
  refine ⟨fun hlong => ?_, fun hshort haligned => ?_⟩
  · have hbc : 64 < (span k (mapEntry m k) lin n).bc :=
      Nat.lt_of_not_le fun hle => Nat.not_le_of_lt hlong (hceiling.mp hle)
    rw [resolve_of_linearOf_ok hn hk hlin, checkSpan_of_tooMany hbc]
  · have hbc := hceiling.mpr hshort
    exact ⟨_, resolve_eq_ok hn hk hlin hbc haligned, span_lin .., span_bc_pos .., hbc⟩

/-! ### Alignment (R127) -/

theorem admits_writeBits (k : Kind) : admits .writeBits k = admits .readBits k := rfl

theorem checkSpan_writeBits {r : Resolved} (h : r.bc ≤ 64) :
    checkSpan .writeBits r = if r.lin % 8 = 0 then .ok r else .fail .addressMisaligned := by
  rw [checkSpan, maxBytes, if_neg (Nat.not_lt.mpr h)]
  by_cases ha : r.lin % 8 = 0 <;> simp [ha]

/-- A WRITE_BITS on what a READ_BITS resolves is left with the alignment check. -/
theorem resolve_writeBits_of_readBits_ok {m : RegMap} {k : Kind} {a n : Nat} {r : Resolved}
    (h : resolve m .readBits k a n = .ok r) :
    resolve m .writeBits k a n = if r.lin % 8 = 0 then .ok r else .fail .addressMisaligned := by
  obtain ⟨hn, hk, ⟨lin, hlin, rfl⟩, -, hbc, -⟩ := resolve_ok h
  rw [← admits_writeBits] at hk
  rw [resolve_of_linearOf_ok hn hk hlin, checkSpan_writeBits hbc]

/-- A READ_BITS fails on a check that a WRITE_BITS makes too, and makes before that of alignment. -/
theorem resolve_writeBits_of_readBits_fail {m : RegMap} {k : Kind} {a n : Nat} {f : ResKind}
    (h : resolve m .readBits k a n = .fail f) : resolve m .writeBits k a n = .fail f := by
  have hn := length_ne_zero_of_resolve_fail h
  have hcases := resolve_fail h
  rw [← admits_writeBits] at hcases
  obtain ⟨rfl, hk⟩ | ⟨hk, hlin⟩ | ⟨hk, lin, hlin, hs⟩ := hcases
  · exact resolve_of_not_admits hn hk
  · exact resolve_of_linearOf_fail hn hk hlin
  · rw [resolve_of_linearOf_ok hn hk hlin]
    obtain ⟨rfl, hbc⟩ | ⟨-, hop, -⟩ := checkSpan_fail hs
    · exact checkSpan_of_tooMany hbc
    · simp at hop

theorem op_of_resolve_misaligned {m : RegMap} {op : Op} {k : Kind} {a n : Nat}
    (h : resolve m op k a n = .fail .addressMisaligned) : op = .writeBits := by
  obtain ⟨hf, -⟩ | ⟨-, hl⟩ | ⟨-, lin, -, hs⟩ := resolve_fail h
  · simp at hf
  · exact absurd rfl (linearOf_fail_preIo hl).2.2
  · obtain ⟨hf, -⟩ | ⟨-, hop, -⟩ := checkSpan_fail hs
    · simp at hf
    · exact hop

/-- Settles O40: the alignment check is the last one and is made of a WRITE_BITS alone. -/
theorem onlyWriteBitsChecksAlignment : Obligations.OnlyWriteBitsChecksAlignment :=
  ⟨fun _ _ _ _ _ => resolve_writeBits_of_readBits_ok, fun _ _ _ _ _ => resolve_writeBits_of_readBits_fail,
    fun _ _ _ _ _ => op_of_resolve_misaligned, fun _ _ _ h => (resolveForce_fail_preIo h).2.2 rfl⟩

/-! ### The range check (R112, R122) -/

theorem span_with_max (k : Kind) (e : MapEntry) (top : Word) (lin n : Nat) :
    span k { e with max := top } lin n = span k e lin n := rfl

/-- Settles O60: of the maximum the decoder asks only that it is not below the start. -/
theorem onlyTheStartAddressIsRangeChecked : Obligations.OnlyTheStartAddressIsRangeChecked := by
  intro m op k a n r _ h
  obtain ⟨hn, hk, ⟨lin, hlin, rfl⟩, -, hbc, haligned⟩ := resolve_ok h
  obtain ⟨hdigit, hmin, hmax, heq⟩ := linearOf_ok hlin
  refine ⟨hmin, hmax, fun top htop m' hm' => ?_⟩
  have hlin' : linearOf k (mapEntry m' k) a = .ok lin := by
    rw [heq, hm']
    exact linearOf_eq_ok hdigit hmin htop
  have hspan : span k (mapEntry m' k) lin n = span k (mapEntry m k) lin n := by rw [hm', span_with_max]
  rw [← hspan] at hbc ⊢
  exact resolve_eq_ok hn hk hlin' hbc (by simpa using haligned)

/-! ### Length 0 in `BUILDING` (R121) -/

theorem buildRead_zeroLength (op : Op) (k : Kind) (a : Word) (s : State) :
    buildRead op k a 0 s = .refused .zeroLength := by
  simp [buildRead]

theorem buildWrite_zeroLength (op : Op) (k : Kind) (a : Word) (p : State → Option (List Byte)) (s : State) :
    buildWrite op k a 0 p s = .refused .zeroLength := by
  simp [buildWrite]

theorem buildOf_zeroLength {i : Instr} (s : State) (hforce : isForce i.op = false) (hlen : i.len = 0) :
    buildOf i s = .refused .zeroLength := by
  cases i with
  | readBits k a n | readW16 k a n | readW32 k a n =>
    obtain rfl : n = 0 := hlen
    rw [buildOf, buildRead_zeroLength]
  | writeBits k a n | writeW16 k a n =>
    obtain rfl : n = 0 := hlen
    rw [buildOf, buildWrite_zeroLength]
  | forceSet | forceClear => cases hforce

/-- Settles O14: the build refuses, and with it the step out of `BUILDING`. -/
theorem zeroLengthIsRefused : Obligations.ZeroLengthIsRefused := by
  intro i s hfsm hforce hlen
  rw [exec_building hfsm, buildAndTransmit, buildOf_zeroLength s hforce hlen]

/-! ### The length of a force (R120) -/

/-- The change that a latched length of `n` makes to a state after `s`: none, unless `s` latched a command. -/
def relength (n : Word) (s t : State) : State :=
  if s.fsm = .idle ∧ (offered s).isSome then { t with cmd := t.cmd.map (fun c => { c with len := n }) } else t

theorem mapNext_relength_of_not_accepting {n : Word} {s : State} (h : ¬(s.fsm = .idle ∧ (offered s).isSome))
    (x : Outcome) : mapNext (relength n s) x = x := by
  cases x with
  | next t => exact congrArg _ (if_neg h)
  | fault | refused => rfl

theorem accept_relength {s : State} (hidle : s.fsm = .idle) (c : CmdLatch) (n : Word)
    (l : DataPort → State → State) :
    accept { c with len := n } l s = mapNext (relength n s) (accept c l s) := by
  cases ho : offered s with
  | none =>
    rw [mapNext_relength_of_not_accepting (by simp [ho])]
    simp only [accept, ho]
  | some o => simp [accept, mapNext, relength, hidle, ho]

/-- A transaction whose parts do not read the length is the same under another one, but for the latch. -/
theorem transact_relength (c : CmdLatch) (n : Word) (l : DataPort → State → State) (b : State → Built)
    (v : State → Outcome) (p : State → Payload) (s : State) :
    transact { c with len := n } l b v p s = mapNext (relength n s) (transact c l b v p s) := by
  by_cases hidle : s.fsm = .idle
  · simpa only [transact, hidle] using accept_relength hidle c n l
  · rw [mapNext_relength_of_not_accepting fun h => hidle h.1]
    unfold transact
    split
    · contradiction
    all_goals rfl

/-- Settles O59: of the parts of a force's transaction only the latch holds the length. -/
theorem forcesIgnoreTheirLength : Obligations.ForcesIgnoreTheirLength := by
  intro k a n₁ n₂ s
  exact ⟨transact_relength ⟨.forceSet, k, a, n₁⟩ n₂ .., transact_relength ⟨.forceClear, k, a, n₁⟩ n₂ ..⟩

end Sys2Proof.Machine
end

section
/-! PROOFS, the frame codec. The digits of a byte and what decodes to them, the sum of a span, and what one changed byte
of a correct response does to its checksum (41_frame_codec R140 to R154). -/

namespace Sys2Proof.Machine

/-! ### The force address field -/

/-- The digits of a byte of a word are the digits of the word at the byte's place. -/
theorem hex2_extractLsb' (d : Word) (k : Nat) :
    hex2 (d.extractLsb' k 8) = [hexchar (d.extractLsb' (k + 4) 4), hexchar (d.extractLsb' k 4)] := by
  have digit (j : Nat) (hj : j + 4 ≤ 8) : (d.extractLsb' k 8).extractLsb' j 4 = d.extractLsb' (k + j) 4 := by
    ext i hi
    have hin : j + i < 8 := by omega
    simp [hin, Nat.add_assoc]
  simp [hex2, digit]

/-- Settles O47: the four digits of `hex4` with its pairs swapped are the digits of the low and then the high byte. -/
theorem forceAddressFieldIsPairSwapped : Obligations.ForceAddressFieldIsPairSwapped := by
  refine ⟨fun d => ⟨_, _, _, _, rfl, rfl⟩, fun d => ?_, rfl⟩
  rw [hex2_extractLsb', hex2_extractLsb']
  rfl

/-! ### The checksum -/

/-- Settles O44, by induction on the sequence. -/
theorem checksumIsTheSumMod256 : Obligations.ChecksumIsTheSumMod256 := by
  intro s
  induction s with
  | nil => rfl
  | cons b s ih => rw [sum8_cons, BitVec.toNat_add, ih, List.map_cons, List.sum_cons, Nat.add_mod_mod]

/-- The bytes before and after a place cancel, so the checksum tells two bytes there apart (41_frame_codec R154). -/
theorem sum8_eq_iff_of_one_byte (a b : List Byte) (x y : Byte) :
    sum8 (a ++ x :: b) = sum8 (a ++ y :: b) ↔ x = y := by
  rw [sum8_append, sum8_append, sum8_cons, sum8_cons, BitVec.add_right_inj, BitVec.add_left_inj]

/-- Settles O45: the bytes around a place cancel, and the sum of R150 has no order. -/
theorem checksumSeesOneByteAndNoOrder : Obligations.ChecksumSeesOneByteAndNoOrder := by
  constructor
  · intro a b x y
    simpa using sum8_eq_iff_of_one_byte a b x y
  · intro a b hperm
    apply BitVec.eq_of_toNat_eq
    rw [checksumIsTheSumMod256, checksumIsTheSumMod256, (hperm.map BitVec.toNat).sum_eq]

/-! ### The digits -/

/-- The character of a digit, from the code of `'0'` up to 9 and from that of `'A'` above (41_frame_codec R140, log 13). -/
theorem hexchar_toNat (v : BitVec 4) :
    (hexchar v).toNat = if v.toNat ≤ 9 then 0x30 + v.toNat else 0x37 + v.toNat := by
  have hv := v.isLt
  unfold hexchar
  split <;> rw [BitVec.toNat_ofNat] <;> omega

/-- The two characters of a byte, as codes (41_frame_codec R141). -/
theorem hex2_map_toNat (b : Byte) :
    (hex2 b).map BitVec.toNat =
      [b.toNat / 16, b.toNat % 16].map (fun v => if v ≤ 9 then 0x30 + v else 0x37 + v) := by
  have hhigh : (b.extractLsb' 4 4).toNat = b.toNat / 16 := by
    rw [BitVec.extractLsb'_toNat, Nat.shiftRight_eq_div_pow]; omega
  have hlow : (b.extractLsb' 0 4).toNat = b.toNat % 16 := by simp
  simp only [hex2, List.map_cons, List.map_nil, hexchar_toNat, hhigh, hlow]

/-- The characters of the byte that a pair of digits makes are those of the digits. -/
theorem hex2_ofNat_digits (h l : BitVec 4) :
    hex2 (BitVec.ofNat 8 (16 * h.toNat + l.toNat)) = [hexchar h, hexchar l] := by
  have hh := h.isLt
  have hl := l.isLt
  have hhigh : (BitVec.ofNat 8 (16 * h.toNat + l.toNat)).extractLsb' 4 4 = h := by
    apply BitVec.eq_of_toNat_eq
    rw [BitVec.extractLsb'_toNat, BitVec.toNat_ofNat, Nat.shiftRight_eq_div_pow]; omega
  have hlow : (BitVec.ofNat 8 (16 * h.toNat + l.toNat)).extractLsb' 0 4 = l := by
    apply BitVec.eq_of_toNat_eq
    rw [BitVec.extractLsb'_toNat, BitVec.toNat_ofNat, Nat.shiftRight_eq_div_pow]; omega
  rw [hex2, hhigh, hlow]

theorem hex2_injective {a b : Byte} (h : hex2 a = hex2 b) : a = b := by
  have hdecode : some [a] = some [b] := by
    rw [← unhexs_hexs true [a], ← unhexs_hexs true [b], hexs_cons, hexs_cons, h]
  simpa using hdecode

/-! ### Which characters decode -/

/-- The characters that decode under a setting of `HEX_ACCEPT_LOWER` (41_frame_codec R145). -/
def IsHexDigit (lower : Bool) (c : Byte) : Prop :=
  (0x30 ≤ c.toNat ∧ c.toNat ≤ 0x39) ∨ (0x41 ≤ c.toNat ∧ c.toNat ≤ 0x46) ∨
    (lower = true ∧ 0x61 ≤ c.toNat ∧ c.toNat ≤ 0x66)

theorem exists_unhexchar_iff (lower : Bool) (c : Byte) : (∃ v, unhexchar lower c = some v) ↔ IsHexDigit lower c := by
  unfold unhexchar IsHexDigit
  split_ifs <;> simp [*]

/-- A pair decodes digit by digit (41_frame_codec R146). -/
theorem unhex2_eq_some_iff {lower : Bool} {c1 c2 b : Byte} :
    unhex2 lower c1 c2 = some b ↔ ∃ h l, unhexchar lower c1 = some h ∧ unhexchar lower c2 = some l ∧
      b = BitVec.ofNat 8 (16 * h.toNat + l.toNat) := by
  unfold unhex2
  split
  · rename_i h l hh hl
    simp [hh, hl, eq_comm]
  · rename_i hbad
    simp only [reduceCtorEq, false_iff]
    rintro ⟨h, l, hh, hl, -⟩
    exact hbad h l hh hl

theorem exists_unhex2_iff (lower : Bool) (c1 c2 : Byte) :
    (∃ b, unhex2 lower c1 c2 = some b) ↔ IsHexDigit lower c1 ∧ IsHexDigit lower c2 := by
  rw [← exists_unhexchar_iff, ← exists_unhexchar_iff]
  constructor
  · rintro ⟨b, hb⟩
    obtain ⟨h, l, hh, hl, -⟩ := unhex2_eq_some_iff.mp hb
    exact ⟨⟨h, hh⟩, ⟨l, hl⟩⟩
  · rintro ⟨⟨h, hh⟩, ⟨l, hl⟩⟩
    exact ⟨_, unhex2_eq_some_iff.mpr ⟨h, l, hh, hl, rfl⟩⟩

theorem exists_unhexs_cons_cons_iff (lower : Bool) (c1 c2 : Byte) (t : List Byte) :
    (∃ s, unhexs lower (c1 :: c2 :: t) = some s) ↔
      (∃ b, unhex2 lower c1 c2 = some b) ∧ ∃ s, unhexs lower t = some s := by
  constructor
  · rintro ⟨s, hs⟩
    obtain ⟨b, rest, hb, hrest, -⟩ := unhexs_cons_cons hs
    exact ⟨⟨b, hb⟩, ⟨rest, hrest⟩⟩
  · rintro ⟨⟨b, hb⟩, ⟨rest, hrest⟩⟩
    exact ⟨b :: rest, by rw [unhexs, hb, hrest]⟩

/-- Pairs of hex digits decode, and nothing else does (41_frame_codec R147; odd lengths: log 27). -/
theorem exists_unhexs_iff (lower : Bool) :
    ∀ t : List Byte, (∃ s, unhexs lower t = some s) ↔ t.length % 2 = 0 ∧ ∀ c ∈ t, IsHexDigit lower c
  | [] => by simp [unhexs]
  | [c] => by simp [unhexs]
  | c1 :: c2 :: t => by
    rw [exists_unhexs_cons_cons_iff, exists_unhex2_iff, exists_unhexs_iff lower t]
    simp only [List.length_cons, List.forall_mem_cons, Nat.add_assoc, Nat.reduceAdd, Nat.add_mod_right]
    tauto

/-! ### Encoding what was decoded -/

/-- What a character that decodes is, and its digit (41_frame_codec R145). -/
theorem unhexchar_eq_some {lower : Bool} {c : Byte} {v : BitVec 4} (h : unhexchar lower c = some v) :
    ((0x30 ≤ c.toNat ∧ c.toNat ≤ 0x39) ∧ v.toNat = c.toNat - 0x30) ∨
      ((0x41 ≤ c.toNat ∧ c.toNat ≤ 0x46) ∧ v.toNat = c.toNat - 0x37) ∨
      ((0x61 ≤ c.toNat ∧ c.toNat ≤ 0x66) ∧ v.toNat = c.toNat - 0x57) := by
  unfold unhexchar at h
  split_ifs at h <;> cases h <;> rw [BitVec.toNat_ofNat] <;> omega

theorem upperHex_toNat (c : Byte) :
    (upperHex c).toNat = if 0x61 ≤ c.toNat ∧ c.toNat ≤ 0x66 then c.toNat - 0x20 else c.toNat := by
  unfold upperHex
  split
  · bv_omega
  · rfl

/-- A decoded character is the character of its digit but for its case (41_frame_codec R148). -/
theorem hexchar_of_unhexchar {lower : Bool} {c : Byte} {v : BitVec 4} (h : unhexchar lower c = some v) :
    hexchar v = upperHex c := by
  apply BitVec.eq_of_toNat_eq
  rw [hexchar_toNat, upperHex_toNat]
  obtain ⟨hc, hv⟩ | ⟨hc, hv⟩ | ⟨hc, hv⟩ := unhexchar_eq_some h
  · rw [hv, if_pos (by omega), if_neg (by omega)]
    omega
  · rw [hv, if_neg (by omega), if_neg (by omega)]
    omega
  · rw [hv, if_neg (by omega), if_pos hc]
    omega

theorem hex2_of_unhex2 {lower : Bool} {c1 c2 b : Byte} (h : unhex2 lower c1 c2 = some b) :
    hex2 b = [upperHex c1, upperHex c2] := by
  obtain ⟨v, w, hv, hw, rfl⟩ := unhex2_eq_some_iff.mp h
  rw [hex2_ofNat_digits, hexchar_of_unhexchar hv, hexchar_of_unhexchar hw]

theorem hexs_of_unhexs {lower : Bool} : ∀ {t s : List Byte}, unhexs lower t = some s → hexs s = t.map upperHex
  | [], s, h => by simp [unhexs] at h; simp [h]
  | [_], s, h => by simp [unhexs] at h
  | c1 :: c2 :: t, s, h => by
    obtain ⟨b, rest, hb, hrest, rfl⟩ := unhexs_cons_cons h
    rw [hexs_cons, hex2_of_unhex2 hb, hexs_of_unhexs hrest]
    rfl

theorem upperHex_of_not_lower {c : Byte} (h : ¬(0x61 ≤ c.toNat ∧ c.toNat ≤ 0x66)) : upperHex c = c := if_neg h

/-- Settles O43: digit by digit, pair by pair, and by induction on the pairs of a sequence. -/
theorem hexCodecRoundTrips : Obligations.HexCodecRoundTrips := by
  refine ⟨hex2_map_toNat, exists_unhexs_iff, unhexs_hexs, fun lower t s h => ⟨hexs_of_unhexs h, fun hupper => ?_⟩⟩
  calc hexs s = t.map upperHex := hexs_of_unhexs h
    _ = t.map id := List.map_congr_left fun c hc => upperHex_of_not_lower (hupper c hc)
    _ = t := t.map_id

/-! ### One changed byte of a response -/

/-- With `BOTH` the received field has to be the two characters of the span's sum (41_frame_codec R153). -/
theorem csMatch_both_iff (r : List Byte) :
    csMatch .both r = true ↔ checksumField r = hex2 (sum8 (checkedSpan r)) := by
  unfold csMatch
  split
  · rename_i hfield hsum
    simp [hfield, hsum]
  · rename_i hshort
    simp only [Bool.false_eq_true, false_iff]
    intro hfield
    exact hshort _ _ _ _ hfield rfl

theorem checkResponse_of_csMatch_ne {c : Cfg} {r : List Byte} (h : ¬csMatch c.checksumMatch r = true) :
    checkResponse c r = .error .checksumMismatch := by
  simp [checkResponse, h]

/-- After the first byte come the checked span and the checksum field (41_frame_codec R152). -/
theorem checkedSpan_cons_append (a : Byte) (span : List Byte) {field : List Byte} (h : field.length = 2) :
    checkedSpan (a :: (span ++ field)) = span := by
  simp [checkedSpan, h]

theorem checksumField_cons_append (a : Byte) (span : List Byte) {field : List Byte} (h : field.length = 2) :
    checksumField (a :: (span ++ field)) = field := by
  simp [checksumField, h]

theorem csMatch_both_cons_append_iff (a : Byte) (span : List Byte) {field : List Byte} (h : field.length = 2) :
    csMatch .both (a :: (span ++ field)) = true ↔ field = hex2 (sum8 span) := by
  rw [csMatch_both_iff, checkedSpan_cons_append a span h, checksumField_cons_append a span h]

/-- A byte of a sequence in two parts lies in the first or in the second. -/
theorem append_eq_append_cons {s f a b : List Byte} {x : Byte} (h : s ++ f = a ++ x :: b) :
    (∃ m, s = a ++ x :: m ∧ b = m ++ f) ∨ ∃ m, a = s ++ m ∧ f = m ++ x :: b := by
  obtain ⟨m, ha, hf⟩ | ⟨m, hs, hb⟩ := List.append_eq_append_iff.mp h
  · exact .inr ⟨m, ha, hf⟩
  · obtain ⟨rfl, rfl⟩ | ⟨m, rfl, rfl⟩ := List.cons_eq_append_iff.mp hb
    · exact .inr ⟨[], by simpa using hs.symm, rfl⟩
    · exact .inl ⟨m, hs, rfl⟩

/-- A change in the span changes the sum and not the field, and one in the field changes the field and not the sum. -/
theorem csMatch_both_of_one_changed (a : Byte) {span pre post : List Byte} {x y : Byte} (hxy : x ≠ y)
    (h : span ++ hex2 (sum8 span) = pre ++ x :: post) : ¬csMatch .both (a :: (pre ++ y :: post)) = true := by
  obtain ⟨m, rfl, rfl⟩ | ⟨m, rfl, hfield⟩ := append_eq_append_cons h
  · rw [← List.cons_append (a := y), ← List.append_assoc, csMatch_both_cons_append_iff a _ (hex2_length _)]
    exact fun hsum => hxy ((sum8_eq_iff_of_one_byte pre m x y).mp (hex2_injective hsum))
  · have hlen : (m ++ y :: post).length = 2 := by
      rw [← hex2_length (sum8 span), hfield]
      simp
    rw [List.append_assoc, csMatch_both_cons_append_iff a span hlen, hfield]
    simpa using hxy.symm

/-- Settles O46: the changed byte lies behind the STX, in the span or in the checksum field. -/
theorem oneCorruptedByteIsAChecksumMismatch : Obligations.OneCorruptedByteIsAChecksumMismatch := by
  intro c p pre post x y hboth hpre hr hxy
  obtain ⟨a, pre, rfl⟩ := List.exists_cons_of_ne_nil hpre
  have hrest : (hexs p ++ [etx]) ++ hex2 (sum8 (hexs p ++ [etx])) = pre ++ x :: post := by
    simpa [readResponse] using (List.cons.inj hr).2
  apply checkResponse_of_csMatch_ne
  rw [hboth]
  simpa using csMatch_both_of_one_changed a hxy hrest

end Sys2Proof.Machine
end

section
/-! PROOFS, the transactions. What the enabled step of a command answers where its ports give what it asks for: one
state function and one equation for each step of 42_transactions R171 to R177. -/

namespace Sys2Proof.Machine

/-! ### Accept (R171) -/

/-- The state after the offer `o` of command `i` is accepted: its latch, and the data of a write with it. -/
def accepted (i : Instr) (o : Offer) (s : State) : State :=
  { s with
    fsm := .building, cmd := some (commandLatch i), resKind := .inProgress, resValid := false
    wdataBits := if i.op = .writeBits then portBits o.data i.len.toNat else s.wdataBits
    wdataWords := if i.op = .writeW16 then portWords o.data i.len.toNat else s.wdataWords
    offers := s.offers.eraseIdx (offerIndex s), turns := s.turns.tail }

theorem exec_accepts (i : Instr) {s : State} {o : Offer} (hf : s.fsm = .idle) (ho : offered s = some o) :
    exec i s = .next (accepted i o s) := by
  rw [exec_idle hf, accept, ho]
  cases i <;> rfl

/-- Settles O11: the state after an accept is `accepted`, whose data fields are the lanes of the data port. -/
theorem acceptLatchesTheCommandAndItsData : Obligations.AcceptLatchesTheCommandAndItsData :=
  fun i _ _ hf ho => exec_accepts i hf ho

/-! ### The requests, written out (30_encoding R88 to R90) -/

/-- The body of a read's request (R88). -/
def readRequest (r : Resolved) : List Byte :=
  [0x30#8] ++ hex4 (BitVec.ofNat 16 r.dev) ++ hex2 (BitVec.ofNat 8 r.bc) ++ [0x03#8]

/-- The body of a write's request with payload `p` (R89). -/
def writeRequest (r : Resolved) (p : List Byte) : List Byte :=
  [0x31#8] ++ hex4 (BitVec.ofNat 16 r.dev) ++ hex2 (BitVec.ofNat 8 r.bc) ++ hexs p ++ [0x03#8]

/-- The body of a force's request with command byte `c` (R90). -/
def forceRequest (c : Byte) (r : ResolvedBit) : List Byte :=
  [c] ++ (hex2 ((BitVec.ofNat 16 r.dev).extractLsb' 0 8) ++ hex2 ((BitVec.ofNat 16 r.dev).extractLsb' 8 8)) ++ [0x03#8]

theorem readRequest_length (r : Resolved) : (readRequest r).length = 8 := rfl

theorem writeRequest_length (r : Resolved) (p : List Byte) : (writeRequest r p).length = 8 + 2 * p.length := by
  simp [writeRequest]; omega

theorem forceRequest_length (c : Byte) (r : ResolvedBit) : (forceRequest c r).length = 6 := rfl

/-- A byte count fits `ra_bc`, so its two digits are those of the byte (10_state R25). -/
theorem setWidth_ofNat_seven {n : Nat} (h : n ≤ 64) : (BitVec.ofNat 7 n).setWidth 8 = BitVec.ofNat 8 n := by
  apply BitVec.eq_of_toNat_eq
  rw [BitVec.toNat_setWidth, BitVec.toNat_ofNat, BitVec.toNat_ofNat]
  omega

theorem readBody_eq_readRequest {r : Resolved} (h : r.bc ≤ 64) :
    readBody (BitVec.ofNat 16 r.dev) (BitVec.ofNat 7 r.bc) = readRequest r := by
  rw [readBody, setWidth_ofNat_seven h]
  rfl

theorem writeBody_eq_writeRequest {r : Resolved} (p : List Byte) (h : r.bc ≤ 64) :
    writeBody (BitVec.ofNat 16 r.dev) (BitVec.ofNat 7 r.bc) p = writeRequest r p := by
  rw [writeBody, setWidth_ofNat_seven h]
  rfl

theorem forceBody_eq_forceRequest (c : Byte) (r : ResolvedBit) :
    forceBody c (BitVec.ofNat 16 r.dev) = forceRequest c r := by
  obtain ⟨-, hswap, -⟩ := forceAddressFieldIsPairSwapped
  rw [forceBody, hswap]
  rfl

/-! ### Build (R172) -/

/-- The state that a build leaves: a resolved address, a frame with its length, and the expected length. -/
def loaded (ra : Option RaAddr) (sp : Option RaSpan) (body : List Byte) (expected : Nat) (s : State) : State :=
  { s with
    raAddr := ra, raSpan := sp, tx := mkframe body, txLen := some (BitVec.ofNat 8 (body.length + 3))
    rxExp := some (BitVec.ofNat 8 expected) }

/-- The state that the build of a read or a write leaves. -/
def loadedResolved (r : Resolved) (body : List Byte) (expected : Nat) (s : State) : State :=
  loaded (some ⟨r.lin, BitVec.ofNat 16 r.dev⟩) (some ⟨r.first, r.last, BitVec.ofNat 7 r.bc⟩) body expected s

/-- The state that the build of a force leaves; the span fields keep what they hold (log 20). -/
def loadedForce (c : Byte) (r : ResolvedBit) (s : State) : State :=
  loaded (some ⟨r.lin, BitVec.ofNat 16 r.dev⟩) s.raSpan (forceRequest c r) 1 s

theorem loadRequest_eq_ready {l : Option State} {body : List Byte} {n : Nat} {s : State} (hl : l = some s)
    (hbody : body.length + 3 ≤ 139) (hn : n ≤ 132) :
    loadRequest l body n = .ready (loaded s.raAddr s.raSpan body n s) := by
  simp [loadRequest, hl, loadFrame_eq s hbody hn, loaded]

/-- The end of the build of a resolved read or write: every value fits under a well-formed map (20_memory R56). -/
theorem loadRequest_latchResolved {m : RegMap} {op : Op} {k : Kind} {a n expected : Nat} {r : Resolved}
    {body : List Byte} (s : State) (hm : regMapWf m = true) (hr : resolve m op k a n = .ok r)
    (hbody : body.length + 3 ≤ 139) (hexp : expected ≤ 132) :
    loadRequest (latchResolved r s) body expected = .ready (loadedResolved r body expected s) := by
  obtain ⟨u, hu⟩ := Option.isSome_iff_exists.mp (latchResolved_isSome s hm hr)
  obtain ⟨-, -, rfl⟩ := latchResolved_some hu
  exact loadRequest_eq_ready hu hbody hexp

theorem buildRead_eq_ready {op : Op} {k : Kind} {a n : Word} {s : State} {r : Resolved} (hcfg : cfgWf s.cfg = true)
    (hr : resolve s.cfg.regmap op k a.toNat n.toNat = .ok r) :
    buildRead op k a n s = .ready (loadedResolved r (readRequest r) (4 + 2 * r.bc) s) := by
  obtain ⟨-, -, -, -, hbc, -⟩ := resolve_ok hr
  simp only [buildRead, hr, readBody_eq_readRequest hbc]
  exact loadRequest_latchResolved s hcfg hr (by rw [readRequest_length]; decide) (by rw [readResponseLength]; omega)

theorem buildWrite_eq_ready {op : Op} {k : Kind} {a n : Word} {payload : State → Option (List Byte)} {s : State}
    {r : Resolved} {p : List Byte} (hcfg : cfgWf s.cfg = true)
    (hr : resolve s.cfg.regmap op k a.toNat n.toNat = .ok r) (hp : payload s = some p) (hlen : p.length = r.bc) :
    buildWrite op k a n payload s = .ready (loadedResolved r (writeRequest r p) 1 s) := by
  obtain ⟨-, -, -, -, hbc, -⟩ := resolve_ok hr
  simp only [buildWrite, hr, hp, writeBody_eq_writeRequest p hbc]
  exact loadRequest_latchResolved s hcfg hr (by rw [writeRequest_length]; omega) (by decide)

theorem buildForce_eq_ready {c : Byte} {k : Kind} {a : Word} {s : State} {r : ResolvedBit} (hcfg : cfgWf s.cfg = true)
    (hr : resolveForce s.cfg.regmap k a.toNat = .ok r) : buildForce c k a s = .ready (loadedForce c r s) := by
  obtain ⟨u, hu⟩ := Option.isSome_iff_exists.mp (latchResolvedBit_isSome s hcfg hr)
  obtain ⟨-, rfl⟩ := latchResolvedBit_some hu
  simp only [buildForce, hr, forceBody_eq_forceRequest]
  exact loadRequest_eq_ready hu (by rw [forceRequest_length]; decide) (by decide)

theorem buildOf_read_eq_ready {i : Instr} {s : State} {r : Resolved} (hread : isRead i.op = true)
    (hcfg : cfgWf s.cfg = true) (hr : resolve s.cfg.regmap i.op i.kind i.addr.toNat i.len.toNat = .ok r) :
    buildOf i s = .ready (loadedResolved r (readRequest r) (4 + 2 * r.bc) s) := by
  cases i with
  | readBits | readW16 | readW32 => exact buildRead_eq_ready hcfg hr
  | writeBits | forceSet | forceClear | writeW16 => cases hread

/-- The bytes of a WRITE_BITS's latched bits are as many as were resolved (43_payload_codec R223). -/
theorem packBits_length_of_resolve {m : RegMap} {k : Kind} {a n : Nat} {r : Resolved} {d : List Bool}
    (hr : resolve m .writeBits k a n = .ok r) (hd : d.length = n) : (packBits d).length = r.bc := by
  rw [packBits_length, hd, resolve_ok_writeBits hr]

/-- The bytes of a WRITE_W16's latched words are as many as were resolved (43_payload_codec R225). -/
theorem wordsToBytes_length_of_resolve {m : RegMap} {k : Kind} {a n : Nat} {r : Resolved} {w : List Word}
    (hr : resolve m .writeW16 k a n = .ok r) (hw : w.length = n) : (wordsToBytes w).length = r.bc := by
  rw [wordsToBytes_length, hw, (resolve_ok_w16 hr rfl).1]

theorem buildOf_writeBits_eq_ready {k : Kind} {a n : Word} {s : State} {r : Resolved} (hcfg : cfgWf s.cfg = true)
    (hr : resolve s.cfg.regmap .writeBits k a.toNat n.toNat = .ok r) (hdata : s.wdataBits.length = n.toNat) :
    buildOf (.writeBits k a n) s = .ready (loadedResolved r (writeRequest r (packBits s.wdataBits)) 1 s) :=
  buildWrite_eq_ready hcfg hr (if_pos hdata) (packBits_length_of_resolve hr hdata)

theorem buildOf_writeW16_eq_ready {k : Kind} {a n : Word} {s : State} {r : Resolved} (hcfg : cfgWf s.cfg = true)
    (hr : resolve s.cfg.regmap .writeW16 k a.toNat n.toNat = .ok r) (hdata : s.wdataWords.length = n.toNat) :
    buildOf (.writeW16 k a n) s = .ready (loadedResolved r (writeRequest r (wordsToBytes s.wdataWords)) 1 s) :=
  buildWrite_eq_ready hcfg hr (if_pos hdata) (wordsToBytes_length_of_resolve hr hdata)

theorem buildRead_failed {op : Op} {k : Kind} {a n : Word} {s : State} {f : ResKind}
    (h : resolve s.cfg.regmap op k a.toNat n.toNat = .fail f) : buildRead op k a n s = .failed f := by
  simp only [buildRead, h]

theorem buildWrite_failed {op : Op} {k : Kind} {a n : Word} {payload : State → Option (List Byte)} {s : State}
    {f : ResKind} (h : resolve s.cfg.regmap op k a.toNat n.toNat = .fail f) :
    buildWrite op k a n payload s = .failed f := by
  simp only [buildWrite, h]

theorem buildForce_failed {c : Byte} {k : Kind} {a : Word} {s : State} {f : ResKind}
    (h : resolveForce s.cfg.regmap k a.toNat = .fail f) : buildForce c k a s = .failed f := by
  simp only [buildForce, h]

theorem buildOf_failed_of_decoder {i : Instr} {s : State} {k : ResKind}
    (hforce : isForce i.op = true → resolveForce s.cfg.regmap i.kind i.addr.toNat = .fail k)
    (hother : isForce i.op = false → resolve s.cfg.regmap i.op i.kind i.addr.toNat i.len.toNat = .fail k) :
    buildOf i s = .failed k := by
  cases i with
  | readBits k a n | readW16 k a n | readW32 k a n => exact buildRead_failed (hother rfl)
  | writeBits k a n | writeW16 k a n => exact buildWrite_failed (hother rfl)
  | forceSet k a n | forceClear k a n => exact buildForce_failed (hforce rfl)

/-- Settles O15: the build fails as the decoder does, so nothing is transmitted. -/
theorem decoderFailureMakesNoTransportCall : Obligations.DecoderFailureMakesNoTransportCall := by
  intro i s k hf hforce hother
  rw [exec_building hf, buildAndTransmit, buildOf_failed_of_decoder hforce hother]
  rfl

/-! ### Transmit (R173) -/

/-- The state that a transport which flushes and takes the whole frame leaves. -/
def sent (frame : List Byte) (fs : List Bool) (ws : List Int) (s : State) : State :=
  { s with
    fsm := .awaiting, flushAnswers := fs, writeAnswers := ws, calls := s.calls ++ [.flushInput, .write frame] }

theorem transmit_eq_sent {before s : State} {frame : List Byte} {fs : List Bool} {ws : List Int}
    (hframe : requestFrame s = some frame) (hfl : s.flushAnswers = true :: fs)
    (hwr : s.writeAnswers = (frame.length : Int) :: ws) : transmit before s = .next (sent frame fs ws s) := by
  simp only [transmit, hframe, hfl, hwr, if_true, sent]

/-- A build that is ready is sent whole, if the transport flushes and takes as many bytes as the frame has. -/
theorem exec_sends {i : Instr} {s : State} {ra : Option RaAddr} {sp : Option RaSpan} {body : List Byte}
    {expected : Nat} {fs : List Bool} {ws : List Int} (hf : s.fsm = .building)
    (hb : buildOf i s = .ready (loaded ra sp body expected s)) (hbody : body.length + 3 ≤ 139)
    (hfl : s.flushAnswers = true :: fs) (hwr : s.writeAnswers = ((body.length + 3 : Nat) : Int) :: ws) :
    exec i s = .next (sent (mkframe body) fs ws (loaded ra sp body expected s)) := by
  rw [exec_building hf, buildAndTransmit, hb]
  exact transmit_eq_sent (requestFrame_loaded rfl rfl hbody) hfl (by rw [mkframe_length]; exact hwr)

/-- Settles O17: a read has no data to latch, so what the decoder passes is built and its frame of 11 bytes sent. -/
theorem readRequestIsBuiltAndSent : Obligations.ReadRequestIsBuiltAndSent := by
  intro i s r fs ws hread hf hcfg hr hfl hwr
  have hlen : (readRequest r).length + 3 ≤ 139 := by rw [readRequest_length]; decide
  exact exec_sends hf (buildOf_read_eq_ready hread hcfg hr) hlen hfl hwr

/-- A write that is built is sent, as a frame with two characters for each of its bytes (30_encoding R94). -/
theorem exec_sends_write {i : Instr} {s : State} {r : Resolved} {p : List Byte} {fs : List Bool} {ws : List Int}
    (hf : s.fsm = .building) (hb : buildOf i s = .ready (loadedResolved r (writeRequest r p) 1 s))
    (hp : p.length ≤ 64) (hfl : s.flushAnswers = true :: fs)
    (hwr : s.writeAnswers = ((11 + 2 * p.length : Nat) : Int) :: ws) :
    exec i s = .next { sent (mkframe (writeRequest r p)) fs ws (loadedResolved r (writeRequest r p) 1 s) with
      txLen := some (BitVec.ofNat 8 (11 + 2 * p.length)) } := by
  have hlen : (writeRequest r p).length + 3 = 11 + 2 * p.length := by rw [writeRequest_length]; omega
  rw [exec_sends hf hb (by omega) hfl (by rw [hlen]; exact hwr), ← hlen]
  rfl

/-- Settles O18: the packed bits are as many bytes as were resolved. -/
theorem writeBitsRequestIsBuiltAndSent : Obligations.WriteBitsRequestIsBuiltAndSent := by
  intro k a n s r fs ws hf hcfg hdata hr hfl hwr
  obtain ⟨-, -, -, -, hbc, -⟩ := resolve_ok hr
  rw [← packBits_length_of_resolve hr hdata] at hwr hbc
  have h := exec_sends_write hf (buildOf_writeBits_eq_ready hcfg hr hdata) hbc hfl hwr
  rw [packBits_length_of_resolve hr hdata] at h
  exact h

/-- Settles O19: the words' bytes are as many as were resolved, two for each word. -/
theorem writeWordsRequestIsBuiltAndSent : Obligations.WriteWordsRequestIsBuiltAndSent := by
  intro k a n s r fs ws hf hcfg hdata hr hfl hwr
  have hbc : r.bc = 2 * n.toNat ∧ n.toNat ≤ 32 := resolve_ok_w16 hr rfl
  have hlen : 11 + 2 * (wordsToBytes s.wdataWords).length = 11 + 4 * n.toNat := by
    rw [wordsToBytes_length, hdata]; omega
  have h := exec_sends_write hf (buildOf_writeW16_eq_ready hcfg hr hdata)
    (by rw [wordsToBytes_length, hdata]; omega) hfl (hlen ▸ hwr)
  rw [hlen] at h
  rw [← hbc.1]
  exact h

/-- Settles O20: a force has no span and no data, and its frame has 9 bytes. -/
theorem forceRequestIsBuiltAndSent : Obligations.ForceRequestIsBuiltAndSent := by
  intro k a n s r fs ws hf hcfg hr hfl hwr
  have hlen (c : Byte) : (forceRequest c r).length + 3 ≤ 139 := by rw [forceRequest_length]; decide
  exact ⟨exec_sends hf (buildForce_eq_ready hcfg hr) (hlen _) hfl hwr,
    exec_sends hf (buildForce_eq_ready hcfg hr) (hlen _) hfl hwr⟩

/-! ### Await (R174) -/

/-- The state after `n` bytes are taken from the answer `b`. -/
def answered (n : BitVec 8) (b : List Byte) (as : List ReadAnswer) (s : State) : State :=
  { s with
    fsm := .validating, rx := b.take n.toNat, rxLen := some n, readAnswers := as, calls := s.calls ++ [.read n.toNat] }

theorem exec_receives (i : Instr) {s : State} {n : BitVec 8} {b : List Byte} {as : List ReadAnswer}
    (hf : s.fsm = .awaiting) (hexp : s.rxExp = some n) (ha : s.readAnswers = .bytes b :: as)
    (hlen : n.toNat ≤ b.length) : exec i s = .next (answered n b as s) := by
  simp only [exec_awaiting hf, await, hexp, ha, if_neg (Nat.not_lt.mpr hlen), answered]

theorem exec_times_out (i : Instr) {s : State} {n : BitVec 8} {a : ReadAnswer} {as : List ReadAnswer}
    (hf : s.fsm = .awaiting) (hexp : s.rxExp = some n) (ha : s.readAnswers = a :: as)
    (hbad : a = .error ∨ ∃ b, a = .bytes b ∧ b.length < n.toNat) :
    exec i s = .next (fail .timeout { s with readAnswers := as, calls := s.calls ++ [.read n.toNat] }) := by
  obtain rfl | ⟨b, rfl, hlt⟩ := hbad
  · simp only [exec_awaiting hf, await, hexp, ha]
  · simp only [exec_awaiting hf, await, hexp, ha, if_pos hlt]

/-- Settles O24: an answer is long enough, or it is an error or too short. -/
theorem awaitTakesTheExpectedBytesOrTimesOut : Obligations.AwaitTakesTheExpectedBytesOrTimesOut := by
  intro i s n as hf hexp
  exact ⟨fun b hb hlen => exec_receives i hf hexp hb hlen, fun a ha hbad => exec_times_out i hf hexp ha hbad⟩

/-! ### Validate an acknowledgement (R176) -/

/-- The state after the byte `b` is taken as the acknowledgement; the payload holds no value in it (log 4). -/
def acknowledged (b : Byte) (s : State) : State :=
  { s with
    fsm := if b = ackByte then .success else .failed
    resKind := if b = ackByte then .success else .notAcknowledged
    resValid := true, outBits := [], outWords := [] }

theorem validateOf_of_not_isRead {i : Instr} (h : isRead i.op = false) : validateOf i = validateAck := by
  cases i with
  | readBits | readW16 | readW32 => cases h
  | writeBits | forceSet | forceClear | writeW16 => rfl

theorem validateAck_eq {s : State} {b : Byte} (hrec : received s = some [b]) :
    validateAck s = .next (acknowledged b s) := by
  by_cases hb : b = ackByte
  · simp only [validateAck, hrec, acknowledged, hb, if_true]; rfl
  · simp only [validateAck, hrec, acknowledged, hb, if_false]; rfl

theorem exec_acknowledges {i : Instr} {s : State} {b : Byte} (hread : isRead i.op = false) (hf : s.fsm = .validating)
    (hrx : s.rx = [b]) (hlen : s.rxLen = some 1) : exec i s = .next (acknowledged b s) := by
  rw [exec_validating hf, validateOf_of_not_isRead hread]
  exact validateAck_eq (hrx ▸ received_all hlen (by rw [hrx]; rfl))

/-- Settles O25: both ends of the acknowledgement are `acknowledged`, for ACK and for any other byte. -/
theorem acknowledgementIsTheAckByte : Obligations.AcknowledgementIsTheAckByte := by
  intro i s b hread hf hrx hlen
  rw [exec_acknowledges hread hf hrx hlen, acknowledged]
  by_cases hb : b = ackByte
  · simp only [hb, if_true]; rfl
  · simp only [hb, if_false]; exact (if_neg hb).symm

/-! ### Validate a read response (R175) -/

/-- The validation of a read is the checks of R175 with the store of its own output. -/
theorem validateOf_of_isRead {i : Instr} (h : isRead i.op = true) : ∃ store, validateOf i = validateRead store := by
  cases i with
  | readBits | readW16 | readW32 => exact ⟨_, rfl⟩
  | writeBits | forceSet | forceClear | writeW16 => cases h

theorem received_of_rxLen {s : State} {r : List Byte} (hrx : s.rx = r) (hlen : s.rxLen = some (BitVec.ofNat 8 r.length))
    (hmax : r.length ≤ 132) : received s = some r := by
  subst hrx
  exact received_all hlen (by rw [BitVec.toNat_ofNat]; omega)

theorem exec_fails_response {i : Instr} {s : State} {r : List Byte} {k : ResKind} (hread : isRead i.op = true)
    (hf : s.fsm = .validating) (hrec : received s = some r) (h4 : 4 ≤ r.length)
    (hk : checkResponse s.cfg r = .error k) : exec i s = .next (fail k s) := by
  obtain ⟨store, hstore⟩ := validateOf_of_isRead hread
  simp only [exec_validating hf, hstore, validateRead, hrec, if_neg (Nat.not_lt.mpr h4), hk]

theorem validateRead_eq_success {store : List Byte → State → Option State} {s u : State} {r p : List Byte}
    (hrec : received s = some r) (h4 : 4 ≤ r.length) (hp : checkResponse s.cfg r = .ok p) (hu : store p s = some u) :
    validateRead store s = .next (succeed u) := by
  simp only [validateRead, hrec, if_neg (Nat.not_lt.mpr h4), hp, hu]

/-- `CHECKSUM_MATCH` on a response with a checksum field, read by the places of R153. -/
theorem csMatch_iff (m : ChecksumMatch) {r : List Byte} (h : 2 ≤ r.length) :
    csMatch m r = true ↔
      match m with
      | .both => checksumField r = hex2 (sum8 (checkedSpan r))
      | .either => (checksumField r)[0]? = (hex2 (sum8 (checkedSpan r)))[0]? ∨
          (checksumField r)[1]? = (hex2 (sum8 (checkedSpan r)))[1]? := by
  have hlen : (checksumField r).length = 2 := by simp [checksumField]; omega
  obtain ⟨f1, f2, hfield⟩ := List.length_eq_two.mp hlen
  cases m with
  | both => exact csMatch_both_iff r
  | either => simp [csMatch, hfield, hex2]

theorem markersOk_iff (r : List Byte) :
    markersOk r = true ↔ r[0]? = some 0x02#8 ∧ r[r.length - 3]? = some 0x03#8 := by
  simp [markersOk, stx, etx]

theorem checkResponse_of_markers {c : Cfg} {r : List Byte} (hs : csMatch c.checksumMatch r = true)
    (hc : c.checkMarkers = true) (hm : ¬markersOk r = true) : checkResponse c r = .error .malformedResponse := by
  simp [checkResponse, hs, hc, hm]

theorem checkResponse_of_not_hex {c : Cfg} {r : List Byte} (hs : csMatch c.checksumMatch r = true)
    (hm : c.checkMarkers = true → markersOk r = true) (hd : unhexs c.hexAcceptLower (dataChars r) = none) :
    checkResponse c r = .error .malformedResponse := by
  cases hc : c.checkMarkers with
  | true => simp [checkResponse, hs, hc, hm hc, hd]
  | false => simp [checkResponse, hs, hc, hd]

/-- Settles O26: the checks are those of `checkResponse`, in its order. -/
theorem readResponseChecksInOrder : Obligations.ReadResponseChecksInOrder := by
  intro i s r hread hf hrx hlen h4 hmax failure expected received matches_ marked data
  have fails {k : ResKind} (hk : checkResponse s.cfg r = .error k) : exec i s = .next (failure k) :=
    exec_fails_response hread hf (received_of_rxLen hrx hlen hmax) h4 hk
  have hmatch : matches_ ↔ csMatch s.cfg.checksumMatch r = true := (csMatch_iff _ (by omega)).symm
  have hmarked : marked ↔ markersOk r = true := (markersOk_iff r).symm
  rw [hmatch, hmarked]
  exact ⟨fun hs => fails (checkResponse_of_csMatch_ne hs), fun hs hc hm => fails (checkResponse_of_markers hs hc hm),
    fun hs hm hd => fails (checkResponse_of_not_hex hs hm hd), fun p hs hm hd => checkResponse_eq_ok hs hm hd⟩

end Sys2Proof.Machine
end

section
/-! PROOFS, the transactions. What a read response writes, what deliver hands over, where the block waits, and the edges
that a step follows (42_transactions R175, R177, R189; 43_payload_codec R222 to R227). -/

namespace Sys2Proof.Machine

/-! ### The bits of a response (43_payload_codec R222) -/

/-- The bit of the payload from which a READ_BITS at linear address `lin` takes its bits. -/
def firstBit (o : BitsOrigin) (lin : Nat) : Nat :=
  match o with
  | .requested => lin % 8
  | .byteBoundary => 0

theorem unpackBits_eq (o : BitsOrigin) (lin n : Nat) (p : List Byte) :
    unpackBits o lin n p = unpackFrom p (firstBit o lin) n := by
  cases o <;> rfl

theorem firstBit_le (o : BitsOrigin) (lin : Nat) : firstBit o lin ≤ lin % 8 := by
  cases o
  · exact le_refl _
  · exact Nat.zero_le _

/-- `bits` are the `n` bits of `p` from bit `start` on. -/
def AreBitsOf (p : List Byte) (start n : Nat) (bits : List Bool) : Prop :=
  bits.length = n ∧
    ∀ j, j < n → ∃ b, p[(start + j) / 8]? = some b ∧ bits[j]? = some (b.getLsbD ((start + j) % 8))

theorem storeBits_eq {s : State} {ra : RaAddr} {n : Word} {p : List Byte} (hra : s.raAddr = some ra)
    (hp : ra.lin % 8 + n.toNat ≤ 8 * p.length) :
    ∃ bits, storeBits n p s = some { s with outBits := bits } ∧
      AreBitsOf p (firstBit s.cfg.readBitsOrigin ra.lin) n.toNat bits := by
  have hfirst := firstBit_le s.cfg.readBitsOrigin ra.lin
  obtain ⟨bits, hbits, hlen, hbit⟩ := unpackFrom_some p n.toNat (firstBit s.cfg.readBitsOrigin ra.lin) (by omega)
  refine ⟨bits, by simp only [storeBits, hra, unpackBits_eq, hbits], hlen, fun j hj => ?_⟩
  obtain ⟨b, hb, hout⟩ := hbit j hj
  exact ⟨b, hb, by rw [hout, bitof_eq_getLsbD b _ (Nat.mod_lt _ (by decide))]⟩

theorem exec_reads_bits {k : Kind} {a n : Word} {s : State} {ra : RaAddr} {r p : List Byte} (hf : s.fsm = .validating)
    (hra : s.raAddr = some ra) (hrec : received s = some r) (h4 : 4 ≤ r.length) (hp : checkResponse s.cfg r = .ok p)
    (hbits : ra.lin % 8 + n.toNat ≤ 8 * p.length) :
    ∃ bits, exec (.readBits k a n) s = .next (succeed { s with outBits := bits }) ∧
      AreBitsOf p (firstBit s.cfg.readBitsOrigin ra.lin) n.toNat bits := by
  obtain ⟨bits, hstore, hare⟩ := storeBits_eq hra hbits
  exact ⟨bits, (exec_validating hf).trans (validateRead_eq_success hrec h4 hp hstore), hare⟩

/-- Settles O27: the response passes, and its payload is long enough for the store of the bits. -/
theorem readBitsWritesTheBitsOfTheResponse : Obligations.ReadBitsWritesTheBitsOfTheResponse := by
  intro k a n s ra r p hf hra hrx hlen h4 hmax hp hbits
  exact exec_reads_bits hf hra (received_of_rxLen hrx hlen hmax) h4 hp hbits

/-! ### The words of a response (43_payload_codec R224 to R227) -/

/-- `words` are the first `n` words of `p`, the low byte of each first. -/
def AreWordsOf (p : List Byte) (n : Nat) (words : List Word) : Prop :=
  words.length = n ∧
    ∀ j, j < n → ∃ lo hi, p[2 * j]? = some lo ∧ p[2 * j + 1]? = some hi ∧ words[j]? = some (hi ++ lo)

theorem storeWords_eq {n : Nat} {p : List Byte} (s : State) (hp : 2 * n ≤ p.length) :
    ∃ words, storeWords n p s = some { s with outWords := words } ∧ AreWordsOf p n words := by
  obtain ⟨words, hwords, hlen, hword⟩ := bytesToWords_some n p hp
  refine ⟨words, by simp only [storeWords, hwords], hlen, fun j hj => ?_⟩
  obtain ⟨lo, hi, hlo, hhi, hout⟩ := hword j hj
  exact ⟨lo, hi, hlo, hhi, by rw [hout, word16_eq_append]⟩

/-- A command that reads `n` words (42_transactions R182, R183). -/
def IsWordRead (i : Instr) (n : Nat) : Prop :=
  (i.op = .readW16 ∧ n = i.len.toNat) ∨ (i.op = .readW32 ∧ n = 2 * i.len.toNat)

theorem IsWordRead.validateOf {i : Instr} {n : Nat} (h : IsWordRead i n) :
    validateOf i = validateRead (storeWords n) := by
  cases i with
  | readW16 k a len =>
    obtain ⟨-, rfl⟩ | ⟨hop, -⟩ := h
    · rfl
    · cases hop
  | readW32 k a len =>
    obtain ⟨hop, -⟩ | ⟨-, rfl⟩ := h
    · cases hop
    · rfl
  | readBits | writeBits | forceSet | forceClear | writeW16 => obtain ⟨hop, -⟩ | ⟨hop, -⟩ := h <;> cases hop

theorem IsWordRead.exec_reads {i : Instr} {n : Nat} (h : IsWordRead i n) {s : State} {r p : List Byte}
    (hf : s.fsm = .validating) (hrec : received s = some r) (h4 : 4 ≤ r.length) (hp : checkResponse s.cfg r = .ok p)
    (hwords : 2 * n ≤ p.length) :
    ∃ words, exec i s = .next (succeed { s with outWords := words }) ∧ AreWordsOf p n words := by
  obtain ⟨words, hstore, hare⟩ := storeWords_eq s hwords
  refine ⟨words, ?_, hare⟩
  rw [exec_validating hf, h.validateOf]
  exact validateRead_eq_success hrec h4 hp hstore

/-- Settles O28: the response passes, and its payload is long enough for the store of the words. -/
theorem wordReadsWriteTheWordsOfTheResponse : Obligations.WordReadsWriteTheWordsOfTheResponse := by
  intro k a len s r p hf hrx hlen h4 hmax hp i n hi hwords
  have hread : IsWordRead i n := by
    obtain ⟨rfl, hn⟩ | ⟨rfl, hn⟩ := hi
    · exact .inl ⟨rfl, hn⟩
    · exact .inr ⟨rfl, hn⟩
  exact hread.exec_reads hf (received_of_rxLen hrx hlen hmax) h4 hp hwords

/-! ### Deliver (R177) -/

/-- What a command hands over beside the result kind (log 19). -/
def resultPayload (i : Instr) (s : State) : Payload :=
  if s.fsm = .failed then .none
  else if i.op = .readBits then .bits s.outBits
  else if i.op = .readW16 ∨ i.op = .readW32 then .words s.outWords
  else .none

/-- The state after a result is taken, with `n` callers left. -/
def handedOver (p : Payload) (n : Nat) (s : State) : State :=
  { s with fsm := .idle, resValid := false, takes := n, delivered := s.delivered ++ [⟨s.resKind, p⟩] }

theorem deliver_eq_handedOver (p : Payload) {s : State} {n : Nat} (h : s.takes = n + 1) :
    deliver p s = .next (handedOver p n s) := by
  simp only [deliver, h, handedOver]

theorem deliver_of_no_caller (p : Payload) {s : State} (h : s.takes = 0) : deliver p s = .next s := by
  simp only [deliver, h]

theorem payloadOf_eq {i : Instr} {s : State} (hf : s.fsm = .success) : payloadOf i s = resultPayload i s := by
  rw [resultPayload, hf]
  cases i <;> rfl

/-- In `SUCCESS` and `FAILED` the step of a command is a deliver of its payload. -/
theorem exec_eq_deliver (i : Instr) {s : State} (hf : s.fsm = .success ∨ s.fsm = .failed) :
    exec i s = deliver (resultPayload i s) s := by
  obtain hf | hf := hf
  · rw [exec_success hf, payloadOf_eq hf]
  · rw [exec_failed hf, resultPayload, if_pos hf]

theorem exec_delivers (i : Instr) {s : State} {n : Nat} (hf : s.fsm = .success ∨ s.fsm = .failed)
    (h : s.takes = n + 1) : exec i s = .next (handedOver (resultPayload i s) n s) := by
  rw [exec_eq_deliver i hf, deliver_eq_handedOver _ h]

/-- Settles O30: in both result states the step is a deliver, and a caller takes its payload. -/
theorem deliverHandsOverTheResult : Obligations.DeliverHandsOverTheResult :=
  fun i _ _ htakes hf => exec_delivers i hf htakes

/-! ### Waiting (R189, 60_exceptions R277) -/

theorem step_eq_exec {s : State} {i : Instr} (hreset : resetAsserted s = false) (hcfg : cfgWf s.cfg = true)
    (hi : fetch s = .command i) : step s = exec i (sampled s) := by
  simp [step, hreset, hcfg, hi]

/-- The step of a busy block that meets the invariant is that of the command it latched (10_state R23). -/
theorem exists_step_eq_exec {s : State} (hreset : resetAsserted s = false) (h : BlockInv s) (hbusy : s.fsm ≠ .idle) :
    ∃ i, s.cmd = some (commandLatch i) ∧ step s = exec i (sampled s) := by
  obtain ⟨hcfg, -, hlatch, -, -⟩ := h
  obtain ⟨c, hc, -⟩ := hlatch hbusy
  obtain ⟨hnone, -⟩ | ⟨c, hc, hi⟩ := fetch_busy hbusy
  · simp [hc] at hnone
  · exact ⟨_, by rw [commandLatch_latchedInstr]; exact hc, step_eq_exec hreset hcfg hi⟩

theorem offered_eq_none {s : State} (h : s.offers = []) : offered s = none := by
  simp [offered, h]

theorem await_of_no_answer {s : State} {n : BitVec 8} (hexp : s.rxExp = some n) (h : s.readAnswers = []) :
    await s = .next s := by
  simp only [await, hexp, h]

theorem idle_waits {s : State} (hreset : resetAsserted s = false) (hcfg : cfgWf s.cfg = true) (hf : s.fsm = .idle)
    (h : s.offers = []) : step s = .next (sampled s) :=
  step_of_runEnded (by simp [runEnded, hf, offered_eq_none h, hcfg]) hreset

theorem awaiting_waits {s : State} (hreset : resetAsserted s = false) (hinv : BlockInv s) (hf : s.fsm = .awaiting)
    (h : s.readAnswers = []) : step s = .next (sampled s) := by
  obtain ⟨i, hi, hstep⟩ := exists_step_eq_exec hreset hinv (by simp [hf])
  obtain ⟨-, -, -, -, hsent⟩ := hinv
  obtain ⟨n, hn, -⟩ := resolvedShape_rxExp (sentShape_resolved hsent hi (.inl hf))
  rw [hstep, exec_awaiting (s := sampled s) hf]
  exact await_of_no_answer hn h

theorem result_waits {s : State} (hreset : resetAsserted s = false) (hinv : BlockInv s)
    (hf : s.fsm = .success ∨ s.fsm = .failed) (h : s.takes = 0) : step s = .next (sampled s) := by
  have hbusy : s.fsm ≠ .idle := by obtain hf | hf := hf <;> simp [hf]
  obtain ⟨i, -, hstep⟩ := exists_step_eq_exec hreset hinv hbusy
  rw [hstep, exec_eq_deliver i (s := sampled s) hf]
  exact deliver_of_no_caller _ h

/-- Settles O10: nothing offered, no answer, or no caller. -/
theorem waitsChangeNothing : Obligations.WaitsChangeNothing := by
  intro s hreset hinv hwait
  obtain ⟨hf, h⟩ | ⟨hf, h⟩ | ⟨hf, h⟩ := hwait
  · exact idle_waits hreset hinv.1 hf h
  · exact awaiting_waits hreset hinv hf h
  · exact result_waits hreset hinv hf h

/-! ### The edges of the transition table (R189) -/

theorem accept_edge {c : CmdLatch} {l : DataPort → State → State} {s t : State} (hf : s.fsm = .idle)
    (h : accept c l s = .next t) : edge .idle t.fsm = true := by
  obtain ⟨-, rfl⟩ | ⟨o, -, rfl⟩ := accept_next h
  · rw [hf]; rfl
  · rfl

theorem buildAndTransmit_edge {i : Instr} {s t : State} (hf : s.fsm = .building)
    (h : buildAndTransmit (buildOf i) s = .next t) : edge .building t.fsm = true := by
  obtain ⟨f, -, rfl⟩ | ⟨b, -, hb⟩ := buildAndTransmit_next h
  · rfl
  · obtain ⟨frame, -, ⟨-, rfl⟩ | ⟨fs, -, rfl⟩ | ⟨fs, -, -, rfl⟩ | ⟨fs, w, ws, -, -, -, rfl⟩ |
      ⟨fs, w, ws, -, -, -, rfl⟩⟩ := transmit_next hb
    · rw [hf]; rfl
    · rfl
    · rw [hf]; rfl
    · rfl
    · rfl

theorem await_edge {s t : State} (hf : s.fsm = .awaiting) (h : await s = .next t) : edge .awaiting t.fsm = true := by
  obtain ⟨n, -, ⟨-, rfl⟩ | ⟨a, as, -, -, rfl⟩ | ⟨b, as, -, -, rfl⟩⟩ := await_next h
  · rw [hf]; rfl
  · rfl
  · rfl

theorem validateOf_edge {i : Instr} {s t : State} (h : validateOf i s = .next t) : edge .validating t.fsm = true := by
  obtain ⟨k, -, rfl⟩ | ⟨bs, ws, -, -, rfl⟩ := validateOf_validatedTo h <;> rfl

theorem deliver_edge {p : Payload} {s t : State} (hf : s.fsm = .success ∨ s.fsm = .failed)
    (h : deliver p s = .next t) : edge s.fsm t.fsm = true := by
  obtain ⟨-, rfl⟩ | ⟨n, -, rfl⟩ := deliver_next h <;> obtain hf | hf := hf <;> rw [hf] <;> rfl

theorem exec_edge {i : Instr} {s t : State} (h : exec i s = .next t) : edge s.fsm t.fsm = true := by
  cases hf : s.fsm with
  | idle => exact accept_edge hf (exec_idle hf ▸ h)
  | building => exact buildAndTransmit_edge hf (exec_building hf ▸ h)
  | awaiting => exact await_edge hf (exec_awaiting hf ▸ h)
  | validating => exact validateOf_edge (exec_validating hf ▸ h)
  | success => exact hf ▸ deliver_edge (.inl hf) (exec_success hf ▸ h)
  | failed => exact hf ▸ deliver_edge (.inr hf) (exec_failed hf ▸ h)

/-- Nothing is fetched in `IDLE` alone. -/
theorem fsm_of_fetch_nothing {s : State} (h : fetch s = .nothing) : s.fsm = .idle := by
  by_contra hbusy
  obtain ⟨-, hu⟩ | ⟨c, -, hc⟩ := fetch_busy hbusy
  · simp [hu] at h
  · simp [hc] at h

/-- Settles O55: a step is a reset, a wait in `IDLE`, or a command's step along an edge. -/
theorem sequencerFollowsItsTransitionTable : Obligations.SequencerFollowsItsTransitionTable := by
  intro s t h
  obtain ⟨hreset, rfl⟩ | ⟨hreset, -, ⟨hnone, rfl⟩ | ⟨i, -, he⟩⟩ := step_next h
  · exact .inr ⟨hreset, rfl⟩
  · exact .inl ⟨hreset, by rw [sampled_fsm, fsm_of_fetch_nothing hnone]; rfl⟩
  · exact .inl ⟨hreset, exec_edge (s := sampled s) he⟩

end Sys2Proof.Machine
end

section
/-! PROOFS, the transactions. Five steps from the offer of a command to the result that a caller takes, said once for
all commands and then for each (42_transactions R170). -/

namespace Sys2Proof.Machine

/-! ### Steps without a reset -/

theorem sampled_of_no_reset {s : State} (h : s.resets = []) : sampled s = s := by
  rw [sampled, h, List.tail_nil, ← h]

theorem resetAsserted_of_no_reset {s : State} (h : s.resets = []) : resetAsserted s = false := by
  rw [resetAsserted, h]; rfl

theorem run_succ {s t : State} (h : step s = .next t) (k : Nat) : run (k + 1) s = run k t := by
  simp only [run, h]

/-- An idle block, with no reset to come, that is served the offer `o` of command `i`. -/
structure Served (i : Instr) (o : Offer) (s : State) : Prop where
  idle : s.fsm = .idle
  resets : s.resets = []
  cfg : cfgWf s.cfg = true
  offered : offered s = some o
  decoded : decode o.word = .ok i

/-- A busy block, with no reset to come, that runs command `i`. -/
structure Running (i : Instr) (s : State) : Prop where
  busy : s.fsm ≠ .idle
  resets : s.resets = []
  cfg : cfgWf s.cfg = true
  cmd : s.cmd = some (commandLatch i)

theorem Served.fetch {i : Instr} {o : Offer} {s : State} (h : Served i o s) : fetch s = .command i := by
  simp [Machine.fetch, h.idle, h.offered, h.decoded]

theorem Running.fetch {i : Instr} {s : State} (h : Running i s) : fetch s = .command i := by
  simp [Machine.fetch, h.busy, h.cmd, latchedInstr]

theorem step_eq_exec_of_no_reset {i : Instr} {s : State} (hresets : s.resets = []) (hcfg : cfgWf s.cfg = true)
    (hi : fetch s = .command i) : step s = exec i s := by
  rw [step_eq_exec (resetAsserted_of_no_reset hresets) hcfg hi, sampled_of_no_reset hresets]

theorem Served.run_succ {i : Instr} {o : Offer} {s : State} (h : Served i o s) (k : Nat) :
    run (k + 1) s = run k (accepted i o s) :=
  Machine.run_succ ((step_eq_exec_of_no_reset h.resets h.cfg h.fetch).trans (exec_accepts i h.idle h.offered)) k

theorem Running.run_succ {i : Instr} {s t : State} (h : Running i s) (he : exec i s = .next t) (k : Nat) :
    run (k + 1) s = run k t :=
  Machine.run_succ ((step_eq_exec_of_no_reset h.resets h.cfg h.fetch).trans he) k

/-! ### The exchange with the transport (R172 to R174) -/

/-- What a transaction exchanges with the transport: the body of its request, the length it expects, the answer, and
the answers left for later transactions. -/
structure Exchange where
  body : List Byte
  expected : Nat
  answer : List Byte
  flushes : List Bool
  writes : List Int
  reads : List ReadAnswer

/-- The transport flushes, takes the whole frame and answers as many bytes as are asked for. -/
structure Exchange.Succeeds (x : Exchange) (s : State) : Prop where
  flush : s.flushAnswers = true :: x.flushes
  write : s.writeAnswers = ((x.body.length + 3 : Nat) : Int) :: x.writes
  read : s.readAnswers = .bytes x.answer :: x.reads
  fits : x.body.length + 3 ≤ 139
  expects : x.expected ≤ 132
  enough : x.expected ≤ x.answer.length

/-- The state in which a build is sent. -/
def Exchange.sent (x : Exchange) (ra : Option RaAddr) (sp : Option RaSpan) (s : State) : State :=
  Machine.sent (mkframe x.body) x.flushes x.writes (loaded ra sp x.body x.expected s)

/-- The state in which its answer is in. -/
def Exchange.answered (x : Exchange) (ra : Option RaAddr) (sp : Option RaSpan) (s : State) : State :=
  Machine.answered (BitVec.ofNat 8 x.expected) x.answer x.reads (x.sent ra sp s)

theorem Exchange.Succeeds.expected_toNat {x : Exchange} {s : State} (h : x.Succeeds s) :
    (BitVec.ofNat 8 x.expected).toNat = x.expected := by
  have := h.expects
  rw [BitVec.toNat_ofNat]; omega

theorem Exchange.Succeeds.calls {x : Exchange} {s : State} (h : x.Succeeds s) (ra : Option RaAddr)
    (sp : Option RaSpan) (t : State) :
    (x.answered ra sp t).calls =
      t.calls ++ [TransportCall.flushInput, TransportCall.write (mkframe x.body), TransportCall.read x.expected] := by
  have hcalls : (x.answered ra sp t).calls = (x.sent ra sp t).calls ++
      [TransportCall.read (BitVec.ofNat 8 x.expected).toNat] := rfl
  rw [hcalls, h.expected_toNat]
  exact List.append_assoc t.calls _ _

/-- What is received is the answer, up to the length asked for. -/
theorem Exchange.Succeeds.received {x : Exchange} {s : State} (h : x.Succeeds s) (ra : Option RaAddr)
    (sp : Option RaSpan) (t : State) : received (x.answered ra sp t) = some (x.answer.take x.expected) := by
  have hrx : (x.answered ra sp t).rx = x.answer.take x.expected := by
    rw [← h.expected_toNat]; rfl
  have hlen : (x.answer.take x.expected).length = x.expected := by simpa using h.enough
  refine received_of_rxLen hrx (by rw [hlen]; rfl) ?_
  rw [hlen]; exact h.expects

/-- Three steps take an offered command to `VALIDATING`: accept, build and transmit, await. -/
theorem run_to_answered {i : Instr} {o : Offer} {s : State} {x : Exchange} {ra : Option RaAddr} {sp : Option RaSpan}
    (h : Served i o s) (hx : x.Succeeds s)
    (hb : buildOf i (accepted i o s) = .ready (loaded ra sp x.body x.expected (accepted i o s))) (k : Nat) :
    run (k + 3) s = run k (x.answered ra sp (accepted i o s)) := by
  have hbuilding : Running i (accepted i o s) := ⟨nofun, h.resets, h.cfg, rfl⟩
  have hawaiting : Running i (x.sent ra sp (accepted i o s)) := ⟨nofun, h.resets, h.cfg, rfl⟩
  have hreceives : exec i (x.sent ra sp (accepted i o s)) = .next (x.answered ra sp (accepted i o s)) :=
    exec_receives i rfl rfl hx.read (by rw [hx.expected_toNat]; exact hx.enough)
  rw [h.run_succ, hbuilding.run_succ (exec_sends rfl hb hx.fits hx.flush hx.write), ← Exchange.sent,
    hawaiting.run_succ hreceives]

/-- Two more steps hand the result over: validate and deliver. -/
theorem run_to_handedOver {i : Instr} {v u : State} {n : Nat} (hv : Running i v) (hu : Running i u)
    (hval : exec i v = .next u) (hf : u.fsm = .success ∨ u.fsm = .failed) (htakes : u.takes = n + 1) :
    run 2 v = .next (handedOver (resultPayload i u) n u) := by
  rw [hv.run_succ hval, hu.run_succ (exec_delivers i hf htakes), run]

/-! ### Writes and forces -/

theorem acknowledged_fsm (b : Byte) (s : State) :
    (acknowledged b s).fsm = .success ∨ (acknowledged b s).fsm = .failed := by
  unfold acknowledged
  by_cases hb : b = ackByte <;> simp [hb]

theorem resultPayload_of_not_isRead {i : Instr} (h : isRead i.op = false) (s : State) : resultPayload i s = .none := by
  unfold resultPayload
  split
  · rfl
  · cases i with
    | readBits | readW16 | readW32 => cases h
    | writeBits | forceSet | forceClear | writeW16 => rfl

/-- A write or a force that is answered with the byte `b`, from the offer to the result that a caller takes. -/
theorem run_acknowledged {i : Instr} {o : Offer} {s : State} {x : Exchange} {ra : Option RaAddr} {sp : Option RaSpan}
    {b : Byte} {more : List Byte} {n : Nat} (hread : isRead i.op = false) (h : Served i o s) (hx : x.Succeeds s)
    (hb : buildOf i (accepted i o s) = .ready (loaded ra sp x.body x.expected (accepted i o s)))
    (hexp : x.expected = 1) (hans : x.answer = b :: more) (htakes : s.takes = n + 1) :
    run 5 s = .next (handedOver .none n (acknowledged b (x.answered ra sp (accepted i o s)))) := by
  have hrec := hx.received ra sp (accepted i o s)
  rw [hexp, hans] at hrec
  have hval : exec i (x.answered ra sp (accepted i o s)) =
      .next (acknowledged b (x.answered ra sp (accepted i o s))) := by
    rw [exec_validating rfl, validateOf_of_not_isRead hread, validateAck_eq hrec]
  have hf := acknowledged_fsm b (x.answered ra sp (accepted i o s))
  have hbusy : (acknowledged b (x.answered ra sp (accepted i o s))).fsm ≠ .idle := by
    obtain hf | hf := hf <;> rw [hf] <;> nofun
  rw [run_to_answered h hx hb 2, ← resultPayload_of_not_isRead hread]
  exact run_to_handedOver ⟨nofun, h.resets, h.cfg, rfl⟩ ⟨hbusy, h.resets, h.cfg, rfl⟩ hval hf htakes

/-- Settles O34: a resolved force is built into its frame of 9 bytes, and one byte acknowledges it. -/
theorem forceTransactionNamesOneBit : Obligations.ForceTransactionNamesOneBit := by
  intro s o i c r b more fs ws as n hi hf hresets hcfg ho hdec hr hfl hwr hrd htakes
  have hx : Exchange.Succeeds ⟨forceRequest c r, 1, b :: more, fs, ws, as⟩ s :=
    ⟨hfl, hwr, hrd, show 9 ≤ 139 by decide, show 1 ≤ 132 by decide, Nat.le_add_left 1 more.length⟩
  have hbuild : isRead i.op = false ∧ buildOf i (accepted i o s) = .ready (loadedForce c r (accepted i o s)) := by
    obtain ⟨hop, rfl⟩ | ⟨hop, rfl⟩ := hi
    · cases i with
      | forceSet => exact ⟨rfl, buildForce_eq_ready hcfg hr⟩
      | readBits | writeBits | forceClear | readW16 | readW32 | writeW16 => cases hop
    · cases i with
      | forceClear => exact ⟨rfl, buildForce_eq_ready hcfg hr⟩
      | readBits | writeBits | forceSet | readW16 | readW32 | writeW16 => cases hop
  obtain ⟨hread, hbuild⟩ := hbuild
  exact ⟨_, run_acknowledged hread ⟨hf, hresets, hcfg, ho, hdec⟩ hx hbuild rfl rfl htakes, rfl, rfl, rfl, rfl,
    hx.calls .., rfl, rfl, rfl, rfl, rfl⟩

theorem portBits_of_le (d : DataPort) {n : Nat} (h : n ≤ 512) :
    portBits d n = (List.range n).map (fun j => d.getLsbD j) := by
  rw [portBits, maxDataBits, Nat.min_eq_left h]

theorem portWords_of_le (d : DataPort) {n : Nat} (h : n ≤ 32) :
    portWords d n = (List.range n).map (fun j => d.extractLsb' (16 * j) 16) := by
  rw [portWords, maxDataWords, Nat.min_eq_left h]

/-- The build of an accepted WRITE_BITS packs the bits offered with it: a resolved command has at most 512 (R119). -/
theorem buildOf_accepted_writeBits {k : Kind} {a n : Word} {o : Offer} {s : State} {r : Resolved}
    (hcfg : cfgWf s.cfg = true) (hr : resolve s.cfg.regmap .writeBits k a.toNat n.toNat = .ok r) :
    let payload := packBits ((List.range n.toNat).map (fun j => o.data.getLsbD j))
    payload.length = r.bc ∧ buildOf (.writeBits k a n) (accepted (.writeBits k a n) o s) =
      .ready (loadedResolved r (writeRequest r payload) 1 (accepted (.writeBits k a n) o s)) := by
  obtain ⟨hfit, hbc⟩ := resolve_ok_bits hr rfl
  have hdata : (accepted (.writeBits k a n) o s).wdataBits = (List.range n.toNat).map (fun j => o.data.getLsbD j) :=
    portBits_of_le o.data (n := n.toNat) (by omega)
  rw [← hdata]
  have hlen : (accepted (.writeBits k a n) o s).wdataBits.length = n.toNat := by rw [hdata]; simp
  exact ⟨packBits_length_of_resolve hr hlen, buildOf_writeBits_eq_ready hcfg hr hlen⟩

/-- The build of an accepted WRITE_W16 sends the words offered with it: a resolved command has at most 32 (R119). -/
theorem buildOf_accepted_writeW16 {k : Kind} {a n : Word} {o : Offer} {s : State} {r : Resolved}
    (hcfg : cfgWf s.cfg = true) (hr : resolve s.cfg.regmap .writeW16 k a.toNat n.toNat = .ok r) :
    let payload := wordsToBytes ((List.range n.toNat).map (fun j => o.data.extractLsb' (16 * j) 16))
    payload.length = r.bc ∧ buildOf (.writeW16 k a n) (accepted (.writeW16 k a n) o s) =
      .ready (loadedResolved r (writeRequest r payload) 1 (accepted (.writeW16 k a n) o s)) := by
  obtain ⟨-, hmax⟩ := resolve_ok_w16 hr rfl
  have hdata : (accepted (.writeW16 k a n) o s).wdataWords =
      (List.range n.toNat).map (fun j => o.data.extractLsb' (16 * j) 16) := portWords_of_le o.data hmax
  rw [← hdata]
  have hlen : (accepted (.writeW16 k a n) o s).wdataWords.length = n.toNat := by rw [hdata]; simp
  exact ⟨wordsToBytes_length_of_resolve hr hlen, buildOf_writeW16_eq_ready hcfg hr hlen⟩

/-- Settles O33: a resolved write is built from the data offered with it, and one byte acknowledges it. -/
theorem writeTransactionSendsTheOfferedData : Obligations.WriteTransactionSendsTheOfferedData := by
  intro s o i payload r b more fs ws as n hi hf hresets hcfg ho hdec hr hfl hwr hrd htakes
  obtain ⟨-, -, -, -, hbc, -⟩ := resolve_ok hr
  have hbuild : isRead i.op = false ∧ payload.length = r.bc ∧
      buildOf i (accepted i o s) = .ready (loadedResolved r (writeRequest r payload) 1 (accepted i o s)) := by
    obtain ⟨hop, rfl⟩ | ⟨hop, rfl⟩ := hi
    · cases i with
      | writeBits => exact ⟨rfl, buildOf_accepted_writeBits hcfg hr⟩
      | readBits | forceSet | forceClear | readW16 | readW32 | writeW16 => cases hop
    · cases i with
      | writeW16 => exact ⟨rfl, buildOf_accepted_writeW16 hcfg hr⟩
      | readBits | writeBits | forceSet | forceClear | readW16 | readW32 => cases hop
  obtain ⟨hread, hpay, hbuild⟩ := hbuild
  have hlen : (writeRequest r payload).length + 3 = 11 + 2 * r.bc := by rw [writeRequest_length, hpay]; omega
  have hx : Exchange.Succeeds ⟨writeRequest r payload, 1, b :: more, fs, ws, as⟩ s :=
    ⟨hfl, by rw [hlen]; exact hwr, hrd, by rw [hlen]; omega, show 1 ≤ 132 by decide, Nat.le_add_left 1 more.length⟩
  exact ⟨hpay, _, run_acknowledged hread ⟨hf, hresets, hcfg, ho, hdec⟩ hx hbuild rfl rfl htakes, rfl, rfl, rfl, rfl,
    hx.calls .., rfl, rfl, rfl, rfl, rfl⟩

/-! ### Reads -/

theorem readResponse_length (p : List Byte) : (readResponse p).length = 4 + 2 * p.length := by
  simp [readResponse]; omega

/-- What a read of the bytes `p` exchanges with the transport. -/
def readExchange (r : Resolved) (p : List Byte) (fs : List Bool) (ws : List Int) (as : List ReadAnswer) : Exchange :=
  ⟨readRequest r, 4 + 2 * r.bc, readResponse p, fs, ws, as⟩

/-- The state in which the response with the bytes `p` is in. -/
def readAnswered (i : Instr) (o : Offer) (r : Resolved) (p : List Byte) (fs : List Bool) (ws : List Int)
    (as : List ReadAnswer) (s : State) : State :=
  (readExchange r p fs ws as).answered (some ⟨r.lin, BitVec.ofNat 16 r.dev⟩)
    (some ⟨r.first, r.last, BitVec.ofNat 7 r.bc⟩) (accepted i o s)

section
variable {i : Instr} {o : Offer} {s : State} {r : Resolved} {p : List Byte} {fs : List Bool} {ws : List Int}
  {as : List ReadAnswer}

theorem readExchange_succeeds (hbc : r.bc ≤ 64) (hp : p.length = r.bc) (hfl : s.flushAnswers = true :: fs)
    (hwr : s.writeAnswers = 11 :: ws) (hrd : s.readAnswers = .bytes (readResponse p) :: as) :
    (readExchange r p fs ws as).Succeeds s :=
  ⟨hfl, hwr, hrd, show 11 ≤ 139 by decide, show 4 + 2 * r.bc ≤ 132 by omega,
    show 4 + 2 * r.bc ≤ (readResponse p).length by rw [readResponse_length, hp]⟩

/-- The whole response is received, and it passes every check with the bytes it holds. -/
theorem received_readAnswered (hp : p.length = r.bc) (hx : (readExchange r p fs ws as).Succeeds s) :
    received (readAnswered i o r p fs ws as s) = some (readResponse p) := by
  have hlen : (readResponse p).length ≤ 4 + 2 * r.bc := by rw [readResponse_length, hp]
  rw [readAnswered, hx.received, readExchange, List.take_of_length_le hlen]

/-- A read whose validation succeeds in the state `u`, from the offer to the result that a caller takes. -/
theorem run_read {u : State} {n : Nat} (hread : isRead i.op = true) (h : Served i o s)
    (hr : resolve s.cfg.regmap i.op i.kind i.addr.toNat i.len.toNat = .ok r)
    (hx : (readExchange r p fs ws as).Succeeds s)
    (hval : exec i (readAnswered i o r p fs ws as s) = .next u) (hu : Running i u) (hf : u.fsm = .success)
    (htakes : u.takes = n + 1) : run 5 s = .next (handedOver (resultPayload i u) n u) := by
  rw [run_to_answered h hx (buildOf_read_eq_ready hread h.cfg hr) 2]
  exact run_to_handedOver ⟨nofun, h.resets, h.cfg, rfl⟩ hu hval (.inl hf) htakes

end

/-- Settles O31: the response holds every bit that was resolved. -/
theorem readBitsTransactionDeliversTheBits : Obligations.ReadBitsTransactionDeliversTheBits := by
  intro s o k a len r p fs ws as n hf hresets hcfg ho hdec hr hp hfl hwr hrd htakes
  obtain ⟨hfit, hbc⟩ := resolve_ok_bits hr rfl
  have hx := readExchange_succeeds hbc hp hfl hwr hrd
  obtain ⟨bits, hval, hlen, hbits⟩ := exec_reads_bits (k := k) (a := a) (n := len) rfl rfl
    (received_readAnswered (i := .readBits k a len) (o := o) hp hx) (by rw [readResponse_length]; omega)
    (checkResponse_readResponse _ p) (hp ▸ hfit)
  exact ⟨_, bits, run_read rfl ⟨hf, hresets, hcfg, ho, hdec⟩ hr hx hval ⟨nofun, hresets, hcfg, rfl⟩ rfl htakes,
    rfl, rfl, rfl, rfl, hlen, hbits, hx.calls .., rfl, rfl, rfl, rfl, rfl⟩

theorem IsWordRead.isRead {i : Instr} {n : Nat} (h : IsWordRead i n) : isRead i.op = true := by
  obtain ⟨hop, -⟩ | ⟨hop, -⟩ := h <;> rw [hop] <;> rfl

/-- A word is two bytes, in a read of either class (R117, R118). -/
theorem IsWordRead.bc_eq {i : Instr} {n : Nat} (h : IsWordRead i n) {m : RegMap} {r : Resolved}
    (hr : resolve m i.op i.kind i.addr.toNat i.len.toNat = .ok r) : r.bc = 2 * n := by
  obtain ⟨hop, rfl⟩ | ⟨hop, rfl⟩ := h <;> rw [hop] at hr
  · exact (resolve_ok_w16 hr rfl).1
  · rw [(resolve_ok_w32 hr rfl).1]; omega

theorem IsWordRead.resultPayload_eq {i : Instr} {n : Nat} (h : IsWordRead i n) {s : State} (hf : s.fsm = .success) :
    resultPayload i s = .words s.outWords := by
  obtain ⟨hop, -⟩ | ⟨hop, -⟩ := h <;> simp [resultPayload, hf, hop]

/-- Settles O32: the response holds two bytes for every word that was resolved. -/
theorem wordReadTransactionDeliversTheWords : Obligations.WordReadTransactionDeliversTheWords := by
  intro s o i count r p fs ws as n hi hf hresets hcfg ho hdec hr hp hfl hwr hrd htakes
  have hread : IsWordRead i count := hi
  obtain ⟨-, -, -, -, hbc, -⟩ := resolve_ok hr
  have hcount := hread.bc_eq hr
  have hx := readExchange_succeeds hbc hp hfl hwr hrd
  obtain ⟨words, hval, hlen, hwords⟩ := hread.exec_reads rfl
    (received_readAnswered (i := i) (o := o) hp hx) (by rw [readResponse_length]; omega)
    (checkResponse_readResponse _ p) (by omega)
  have hrun := run_read hread.isRead ⟨hf, hresets, hcfg, ho, hdec⟩ hr hx hval ⟨nofun, hresets, hcfg, rfl⟩ rfl htakes
  rw [hread.resultPayload_eq rfl] at hrun
  have hasked : 4 + 4 * count = 4 + 2 * r.bc := by omega
  rw [hasked, ← hcount]
  exact ⟨_, words, hrun, rfl, rfl, rfl, rfl, hlen, hwords, hx.calls .., rfl, rfl, rfl, rfl, rfl⟩

end Sys2Proof.Machine
end

section
/-! PROOFS, the payload codec. The bits of a packed byte, what a read unpacks from what a write packs, and the values
that a register pair holds (43_payload_codec R220 to R233). -/

namespace Sys2Proof.Machine

/-! ### Packed bits (43_payload_codec R220 to R223) -/

/-- A byte is the sum of the masks of its bits that are 1 (R220). -/
theorem sum_bitMask_eq (x : Byte) :
    ((List.range 8).map (fun b => if x.getLsbD b = true then bitMask b else 0)).foldr (· + ·) 0 = x := by
  revert x
  decide

/-- The bits `D[8k + 7..8k]` as a byte, 0 past the array's end. -/
def bitsAsByte (d : List Bool) (k : Nat) : Byte := BitVec.ofFnLE fun b : Fin 8 => (d[8 * k + b]?).getD false

theorem getLsbD_bitsAsByte (d : List Bool) (k : Nat) {b : Nat} (h : b < 8) :
    (bitsAsByte d k).getLsbD b = (d[8 * k + b]?).getD false := by
  rw [bitsAsByte, BitVec.getLsbD_ofFnLE, dif_pos h]

/-- The masks that `packByte` adds are those of the bits of `bitsAsByte`. -/
theorem packByte_eq_bitsAsByte (d : List Bool) (k : Nat) : packByte d k = bitsAsByte d k := by
  refine Eq.trans ?_ (sum_bitMask_eq (bitsAsByte d k))
  rw [packByte]
  congr 1
  refine List.map_congr_left fun b hb => ?_
  rw [getLsbD_bitsAsByte d k (List.mem_range.1 hb)]
  cases d[8 * k + b]? <;> simp

theorem packByte_getLsbD (d : List Bool) (k : Nat) {b : Nat} (h : b < 8) :
    (packByte d k).getLsbD b = (d[8 * k + b]?).getD false := by
  rw [packByte_eq_bitsAsByte, getLsbD_bitsAsByte d k h]

theorem packBits_getElem? (d : List Bool) {k : Nat} (h : k < (d.length + 7) / 8) :
    (packBits d)[k]? = some (packByte d k) := by
  simp [packBits, h]

/-- Settles O48: byte `k` is `packByte d k`, whose bits are those of the array. -/
theorem packedBitsAreLsbFirstWithZeroPad : Obligations.PackedBitsAreLsbFirstWithZeroPad := fun d =>
  ⟨packBits_length d, fun k hk => ⟨packByte d k, packBits_getElem? d hk, fun _ hb => packByte_getLsbD d k hb⟩⟩

/-! ### What a write packs, a read unpacks (43_payload_codec R222 to R226) -/

/-- Bit `j` of the array is bit `j % 8` of the packed byte `j / 8`. -/
theorem unpackFrom_packBits (d : List Bool) : unpackFrom (packBits d) 0 d.length = some d := by
  obtain ⟨bs, hbs, hlen, hbit⟩ := unpackFrom_some (packBits d) d.length 0 (by rw [packBits_length]; omega)
  rw [hbs, Option.some_inj]
  refine List.ext_getElem hlen fun j _ hj => ?_
  obtain ⟨b, hb, hout⟩ := hbit j hj
  have hj8 : j % 8 < 8 := Nat.mod_lt _ (by decide)
  rw [Nat.zero_add] at hb hout
  rw [packBits_getElem? d (by omega), Option.some_inj] at hb
  rw [← hb, bitof_eq_getLsbD _ _ hj8, packByte_getLsbD d _ hj8, Nat.div_add_mod, List.getElem?_eq_getElem hj,
    Option.getD_some] at hout
  exact (List.getElem?_eq_some_iff.1 hout).2

/-- Under either origin a read from a byte-aligned address starts at bit 0. -/
theorem firstBit_of_aligned (o : BitsOrigin) {lin : Nat} (h : lin % 8 = 0) : firstBit o lin = 0 :=
  Nat.le_zero.1 (h ▸ firstBit_le o lin)

theorem word16_lo8_hi8 (x : Word) : word16 (lo8 x) (hi8 x) = x := by
  rw [word16_eq_append]
  exact (BitVec.extractLsb'_append_extractLsb'_eq_extractLsb' rfl).trans BitVec.extractLsb'_eq_self

theorem bytesToWords_wordsToBytes (w : List Word) : bytesToWords w.length (wordsToBytes w) = some w := by
  induction w with
  | nil => rfl
  | cons x w ih =>
    have hbytes : wordsToBytes (x :: w) = lo8 x :: hi8 x :: wordsToBytes w := rfl
    simp only [List.length_cons, hbytes, bytesToWords, ih, word16_lo8_hi8]

/-- Settles O49: the bits start at bit 0 of the first byte under either origin, and a word is its two bytes. -/
theorem payloadRoundTrips : Obligations.PayloadRoundTrips :=
  ⟨fun o lin d h => by rw [unpackBits_eq, firstBit_of_aligned o h, unpackFrom_packBits], bytesToWords_wordsToBytes⟩

/-! ### The 32-bit pattern of a register pair (43_payload_codec R228) -/

theorem pair32_toNat (lo hi : Word) : (pair32 lo hi).toNat = lo.toNat + 65536 * hi.toNat := by
  rw [pair32, BitVec.toNat_ofNat]
  omega

theorem split32_fst_toNat (v : DWord) : (split32 v).1.toNat = v.toNat % 65536 := by
  simp [split32]

theorem split32_snd_toNat (v : DWord) : (split32 v).2.toNat = v.toNat / 65536 := by
  rw [split32, BitVec.extractLsb'_toNat, Nat.shiftRight_eq_div_pow]
  omega

theorem pair32_split32 (v : DWord) : pair32 (split32 v).1 (split32 v).2 = v := by
  apply BitVec.eq_of_toNat_eq
  rw [pair32_toNat, split32_fst_toNat, split32_snd_toNat, Nat.mod_add_div]

theorem extractLsb'_extractLsb'_of_add_le {w : Nat} (v : BitVec w) (a : Nat) {m b n : Nat} (h : b + n ≤ m) :
    (v.extractLsb' a m).extractLsb' b n = v.extractLsb' (a + b) n := by
  ext i hi
  simp only [BitVec.getElem_extractLsb', BitVec.getLsbD_extractLsb', Nat.add_assoc]
  rw [decide_eq_true (by omega : b + i < m), Bool.true_and]

/-- The four device bytes of a value ascend from the least significant. -/
theorem wordsToBytes_split32 (v : DWord) : wordsToBytes [(split32 v).1, (split32 v).2] =
    [v.extractLsb' 0 8, v.extractLsb' 8 8, v.extractLsb' 16 8, v.extractLsb' 24 8] := by
  simp [wordsToBytes, lo8, hi8, split32, extractLsb'_extractLsb'_of_add_le]

/-! ### The values of a register pair (43_payload_codec R229 to R232) -/

theorem u32_split32_ofNat {u : Nat} (h : u < 2 ^ 32) :
    u32 (split32 (BitVec.ofNat 32 u)).1 (split32 (BitVec.ofNat 32 u)).2 = u := by
  rw [u32, pair32_split32, BitVec.toNat_ofNat, Nat.mod_eq_of_lt h]

/-- The signed value of a pair is the two's complement reading of its pattern (log 14). -/
theorem i32_eq_toInt (lo hi : Word) : i32 lo hi = (pair32 lo hi).toInt := by
  rw [i32, BitVec.toInt_eq_toNat_cond]
  split <;> split <;> omega

theorem i32_split32_ofInt {x : Int} (hmin : -(2 ^ 31) ≤ x) (hmax : x ≤ 2 ^ 31 - 1) :
    i32 (split32 (BitVec.ofInt 32 x)).1 (split32 (BitVec.ofInt 32 x)).2 = x := by
  rw [i32_eq_toInt, pair32_split32]
  exact BitVec.toInt_ofInt_eq_self (by decide) hmin (Int.lt_of_le_sub_one hmax)

theorem f32Pattern_sign (f : F32) : (f32Pattern f).extractLsb' 31 1 = f.sign := by
  rw [f32Pattern, BitVec.extractLsb'_append_eq_of_le (by decide)]
  exact BitVec.extractLsb'_append_eq_left

theorem f32Pattern_exponent (f : F32) : (f32Pattern f).extractLsb' 23 8 = f.exponent := by
  rw [f32Pattern, BitVec.extractLsb'_append_eq_of_le (by decide)]
  exact BitVec.extractLsb'_append_eq_right

theorem f32Pattern_fraction (f : F32) : (f32Pattern f).extractLsb' 0 23 = f.fraction :=
  BitVec.extractLsb'_append_eq_right

/-- The fields of a float are the bits 31, 30 to 23 and 22 to 0 of its pattern (log 14). -/
theorem f32_encodeF32 (f : F32) : f32 (encodeF32 f).1 (encodeF32 f).2 = f := by
  rw [f32, encodeF32, pair32_split32, f32Pattern_sign, f32Pattern_exponent, f32Pattern_fraction]

/-! ### A pair in a register buffer (43_payload_codec R233) -/

/-- Registers `k` and `k + 1` of the buffer hold the pair, and the others are as before. -/
theorem putPair_spec {buf : List Word} {k : Nat} (p : Word × Word) (h : k + 1 < buf.length) :
    ∃ b, putPair buf k p = some b ∧ b.length = buf.length ∧ getPair b k = some p ∧
      ∀ j, j ≠ k → j ≠ k + 1 → b[j]? = buf[j]? := by
  refine ⟨_, if_pos h, by simp, ?_, fun j hlo hhi => ?_⟩
  · simp [getPair, h, Nat.lt_of_succ_lt h]
  · rw [List.getElem?_set_ne (Ne.symm hhi), List.getElem?_set_ne (Ne.symm hlo)]

/-- Settles O50: every value is read from the pattern that its encoding splits, and a pair stands where it was put. -/
theorem registerPairsRoundTrip : Obligations.RegisterPairsRoundTrip :=
  ⟨pair32_toNat, fun v => ⟨split32_fst_toNat v, split32_snd_toNat v, wordsToBytes_split32 v⟩, pair32_split32,
    fun _ h => ⟨_, if_pos h, u32_split32_ofNat h⟩,
    fun _ hmin hmax => ⟨_, if_pos ⟨hmin, hmax⟩, i32_split32_ofInt hmin hmax⟩,
    f32_encodeF32, fun _ _ p h => putPair_spec p h⟩

end Sys2Proof.Machine
end

section
/-! PROOFS, the exceptions. Which command is served next, how the step out of `BUILDING` depends on the transport's
answers, and which calls a step makes (60_exceptions R254, R270 to R277). -/

namespace Sys2Proof.Machine

/-! ### Any waiting command can be next (R276) -/

theorem offerIndex_of_draw {s : State} {n : Nat} (h : n < s.offers.length) :
    offerIndex (withPort s.offers [n] s) = n := Nat.mod_eq_of_lt h

/-- Settles O13: the draw `n` is below the number of offers, so it is the place of the offer served. -/
theorem anyWaitingCommandCanBeNext : Obligations.AnyWaitingCommandCanBeNext := by
  intro s n o ho
  obtain ⟨hn, -⟩ := List.getElem?_eq_some_iff.mp ho
  have hindex := offerIndex_of_draw hn
  have hoffered : offered (withPort s.offers [n] s) = some o := by rw [offered, hindex]; exact ho
  refine ⟨hoffered, fun i t hf he => ?_⟩
  obtain rfl := Host.Outcome.next.inj ((exec_accepts i (s := withPort s.offers [n] s) hf hoffered).symm.trans he)
  rw [accepted, hindex]
  rfl

/-! ### A build reads no answer of the transport (42_transactions R172) -/

/-- A state with other answers to come for the flush and the write. -/
def withAnswers (fs : List Bool) (ws : List Int) (s : State) : State :=
  { s with flushAnswers := fs, writeAnswers := ws }

section
variable {fs : List Bool} {ws : List Int} {s b : State}

theorem latchResolved_withAnswers (r : Resolved) :
    latchResolved r (withAnswers fs ws s) = (latchResolved r s).map (withAnswers fs ws) := by
  unfold latchResolved
  split <;> rfl

theorem latchResolvedBit_withAnswers (r : ResolvedBit) :
    latchResolvedBit r (withAnswers fs ws s) = (latchResolvedBit r s).map (withAnswers fs ws) := by
  unfold latchResolvedBit
  split <;> rfl

theorem loadRequest_withAnswers {l : Option State} {body : List Byte} {n : Nat}
    (h : loadRequest l body n = .ready b) :
    loadRequest (l.map (withAnswers fs ws)) body n = .ready (withAnswers fs ws b) := by
  obtain ⟨u, v, rfl, hload, hready⟩ | hfault := loadRequest_cases l body n
  · obtain ⟨hbody, hn, rfl⟩ := loadFrame_some hload
    obtain rfl := Built.ready.inj (hready.symm.trans h)
    exact loadRequest_eq_ready rfl hbody hn
  · simp [hfault] at h

theorem buildRead_withAnswers {op : Op} {k : Kind} {a n : Word} (h : buildRead op k a n s = .ready b) :
    buildRead op k a n (withAnswers fs ws s) = .ready (withAnswers fs ws b) := by
  have hcfg : (withAnswers fs ws s).cfg = s.cfg := rfl
  unfold buildRead at h ⊢
  split at h
  · simp at h
  · simp at h
  · rename_i r hr
    simpa only [hcfg, hr, latchResolved_withAnswers] using loadRequest_withAnswers h

theorem buildWrite_withAnswers {op : Op} {k : Kind} {a n : Word} {payload : State → Option (List Byte)}
    (hp : payload (withAnswers fs ws s) = payload s) (h : buildWrite op k a n payload s = .ready b) :
    buildWrite op k a n payload (withAnswers fs ws s) = .ready (withAnswers fs ws b) := by
  have hcfg : (withAnswers fs ws s).cfg = s.cfg := rfl
  unfold buildWrite at h ⊢
  split at h
  · simp at h
  · simp at h
  · rename_i r hr
    split at h
    · simp at h
    · rename_i p hsome
      simpa only [hcfg, hr, hp, hsome, latchResolved_withAnswers] using loadRequest_withAnswers h

theorem buildForce_withAnswers {c : Byte} {k : Kind} {a : Word} (h : buildForce c k a s = .ready b) :
    buildForce c k a (withAnswers fs ws s) = .ready (withAnswers fs ws b) := by
  have hcfg : (withAnswers fs ws s).cfg = s.cfg := rfl
  unfold buildForce at h ⊢
  split at h
  · simp at h
  · simp at h
  · rename_i r hr
    simpa only [hcfg, hr, latchResolvedBit_withAnswers] using loadRequest_withAnswers h

theorem buildOf_withAnswers {i : Instr} (h : buildOf i s = .ready b) :
    buildOf i (withAnswers fs ws s) = .ready (withAnswers fs ws b) := by
  cases i with
  | readBits | readW16 | readW32 => exact buildRead_withAnswers h
  | writeBits | writeW16 => exact buildWrite_withAnswers rfl h
  | forceSet | forceClear => exact buildForce_withAnswers h

/-- Of a command that is built, the step out of `BUILDING` is a transmit of what was built, whatever the answers. -/
theorem exec_withAnswers {i : Instr} (hf : s.fsm = .building) (hb : buildOf i s = .ready b) :
    exec i (withAnswers fs ws s) = transmit (withAnswers fs ws s) (withAnswers fs ws b) := by
  have hf' : (withAnswers fs ws s).fsm = .building := hf
  rw [exec_building hf', buildAndTransmit, buildOf_withAnswers hb]

end

/-- The whole of `tx` is sent, and the build used no answer and made no call. -/
theorem buildOf_ready_ports {i : Instr} {s b : State} (h : buildOf i s = .ready b) :
    requestFrame b = some b.tx ∧ b.flushAnswers = s.flushAnswers ∧ b.writeAnswers = s.writeAnswers ∧
      b.calls = s.calls := by
  obtain ⟨ra, sp, exp, body, hlen, rfl⟩ := buildOf_ready_frame h
  exact ⟨requestFrame_loaded rfl rfl hlen, rfl, rfl, rfl⟩

/-! ### What transmit makes of each answer (R272, R274, R277) -/

section
variable {before s : State} {frame : List Byte} {fs : List Bool}

theorem transmit_of_flush_unanswered (hframe : requestFrame s = some frame) (hfl : s.flushAnswers = []) :
    transmit before s = .next before := by
  simp only [transmit, hframe, hfl]

theorem transmit_of_write_unanswered (hframe : requestFrame s = some frame) (hfl : s.flushAnswers = true :: fs)
    (hwr : s.writeAnswers = []) : transmit before s = .next before := by
  simp only [transmit, hframe, hfl, hwr]

theorem transmit_of_flush_failed (hframe : requestFrame s = some frame) (hfl : s.flushAnswers = false :: fs) :
    transmit before s =
      .next (fail .transmitFailure { s with flushAnswers := fs, calls := s.calls ++ [.flushInput] }) := by
  simp only [transmit, hframe, hfl]

theorem transmit_of_write_miscounted {w : Int} {ws : List Int} (hframe : requestFrame s = some frame)
    (hfl : s.flushAnswers = true :: fs) (hwr : s.writeAnswers = w :: ws) (hw : w ≠ frame.length) :
    transmit before s = .next (fail .transmitFailure { s with
      flushAnswers := fs, writeAnswers := ws, calls := s.calls ++ [.flushInput, .write frame] }) := by
  simp only [transmit, hframe, hfl, hwr, if_neg hw]

end

/-- A step that reaches `AWAITING` built its command and sent the whole frame. -/
theorem exec_sent {i : Instr} {s t : State} (hf : s.fsm = .building) (h : exec i s = .next t)
    (ht : t.fsm = .awaiting) :
    ∃ b fs ws, buildOf i s = .ready b ∧ s.flushAnswers = true :: fs ∧ s.writeAnswers = (b.tx.length : Int) :: ws ∧
      t = sent b.tx fs ws b := by
  obtain ⟨f, -, rfl⟩ | ⟨b, hb, hsent⟩ := buildAndTransmit_next (exec_building hf ▸ h)
  · simp at ht
  obtain ⟨hframe, hfl, hwr, -⟩ := buildOf_ready_ports hb
  obtain ⟨frame, hframe', ⟨-, rfl⟩ | ⟨fs, -, rfl⟩ | ⟨fs, -, -, rfl⟩ | ⟨fs, w, ws, -, -, -, rfl⟩ |
    ⟨fs, w, ws, hfs, hws, rfl, rfl⟩⟩ := transmit_next hsent
  · simp [hf] at ht
  · simp at ht
  · simp [hf] at ht
  · simp at ht
  · obtain rfl : b.tx = frame := Option.some.inj (hframe.symm.trans hframe')
    exact ⟨b, fs, ws, hb, hfl ▸ hfs, hwr ▸ hws, rfl⟩

/-- Settles O22: the build is the same without the answer, and transmit waits for it in the state before the step. -/
theorem unansweredTransmitLeavesTheBlockBuilding : Obligations.UnansweredTransmitLeavesTheBlockBuilding := by
  intro i s t fs hf hfl h ht
  obtain ⟨b, -, -, hb, -⟩ := exec_sent hf h ht
  obtain ⟨hframe, -⟩ := buildOf_ready_ports hb
  exact ⟨(exec_withAnswers (ws := s.writeAnswers) hf hb).trans (transmit_of_flush_unanswered hframe rfl),
    (exec_withAnswers (fs := s.flushAnswers) hf hb).trans (transmit_of_write_unanswered hframe hfl rfl)⟩

/-- Settles O21: the build is the same under the other answers, and transmit fails on either of them. -/
theorem flushOrWriteFailureIsTransmitFailure : Obligations.FlushOrWriteFailureIsTransmitFailure := by
  intro i s t fs w ws hf hfl hwr h ht
  obtain ⟨b, fs, ws, hb, hfs, hws, rfl⟩ := exec_sent hf h ht
  obtain ⟨rfl, rfl⟩ := List.cons.inj (hwr.symm.trans hws)
  obtain ⟨hframe, -, -, hcalls⟩ := buildOf_ready_ports hb
  refine ⟨rfl, fun fs' => ?_, fun w' ws' hw' => ?_⟩
  · have hfails := transmit_of_flush_failed (before := withAnswers (false :: fs') s.writeAnswers s)
      (s := withAnswers (false :: fs') s.writeAnswers b) hframe rfl
    refine ((exec_withAnswers hf hb).trans hfails).trans ?_
    rw [← hcalls, ← hws]
    rfl
  · exact (exec_withAnswers (fs := s.flushAnswers) hf hb).trans (transmit_of_write_miscounted hframe hfs rfl hw')

/-! ### The calls of a step (R271) -/

/-- The calls that a step from `s` to `t` may have made: none, a flush and perhaps a write of `tx` out of `BUILDING`,
or a read of `rx_exp` bytes in `AWAITING`. -/
def CallsInOrder (s t : State) : Prop :=
  t.calls = s.calls ∨
  (s.fsm = .building ∧ (t.calls = s.calls ++ [.flushInput] ∨
    ∃ f, t.calls = s.calls ++ [.flushInput, .write f] ∧ t.tx = f)) ∨
  (s.fsm = .awaiting ∧ ∃ n, s.rxExp = some n ∧ t.calls = s.calls ++ [.read n.toNat])

@[simp] theorem latchOf_calls (i : Instr) (d : DataPort) (s : State) : (latchOf i d s).calls = s.calls := by
  cases i <;> rfl

theorem accept_calls {i : Instr} {c : CmdLatch} {s t : State} (h : accept c (latchOf i) s = .next t) :
    t.calls = s.calls := by
  obtain ⟨-, rfl⟩ | ⟨o, -, rfl⟩ := accept_next h
  · rfl
  · exact latchOf_calls i o.data (takeOffer s)

theorem buildAndTransmit_callsInOrder {i : Instr} {s t : State} (hf : s.fsm = .building)
    (h : buildAndTransmit (buildOf i) s = .next t) : CallsInOrder s t := by
  obtain ⟨f, -, rfl⟩ | ⟨b, hb, hsent⟩ := buildAndTransmit_next h
  · exact .inl rfl
  obtain ⟨hframe, -, -, hcalls⟩ := buildOf_ready_ports hb
  obtain ⟨frame, hframe', hcases⟩ := transmit_next hsent
  obtain rfl : b.tx = frame := Option.some.inj (hframe.symm.trans hframe')
  rw [hcalls] at hcases
  obtain ⟨-, rfl⟩ | ⟨fs, -, rfl⟩ | ⟨fs, -, -, rfl⟩ | ⟨fs, w, ws, -, -, -, rfl⟩ | ⟨fs, w, ws, -, -, -, rfl⟩ := hcases
  · exact .inl rfl
  · exact .inr (.inl ⟨hf, .inl rfl⟩)
  · exact .inl rfl
  · exact .inr (.inl ⟨hf, .inr ⟨_, rfl, rfl⟩⟩)
  · exact .inr (.inl ⟨hf, .inr ⟨_, rfl, rfl⟩⟩)

theorem await_callsInOrder {s t : State} (hf : s.fsm = .awaiting) (h : await s = .next t) : CallsInOrder s t := by
  obtain ⟨n, hn, ⟨-, rfl⟩ | ⟨a, as, -, -, rfl⟩ | ⟨b, as, -, -, rfl⟩⟩ := await_next h
  · exact .inl rfl
  · exact .inr (.inr ⟨hf, n, hn, rfl⟩)
  · exact .inr (.inr ⟨hf, n, hn, rfl⟩)

theorem validateOf_calls {i : Instr} {s t : State} (h : validateOf i s = .next t) : t.calls = s.calls := by
  obtain ⟨k, -, rfl⟩ | ⟨bs, ws, -, -, rfl⟩ := validateOf_validatedTo h <;> rfl

theorem deliver_calls {p : Payload} {s t : State} (h : deliver p s = .next t) : t.calls = s.calls := by
  obtain ⟨-, rfl⟩ | ⟨n, -, rfl⟩ := deliver_next h <;> rfl

theorem exec_callsInOrder {i : Instr} {s t : State} (h : exec i s = .next t) : CallsInOrder s t := by
  cases hf : s.fsm with
  | idle => exact .inl (accept_calls (exec_idle hf ▸ h))
  | building => exact buildAndTransmit_callsInOrder hf (exec_building hf ▸ h)
  | awaiting => exact await_callsInOrder hf (exec_awaiting hf ▸ h)
  | validating => exact .inl (validateOf_calls (exec_validating hf ▸ h))
  | success => exact .inl (deliver_calls (exec_success hf ▸ h))
  | failed => exact .inl (deliver_calls (exec_failed hf ▸ h))

/-- Settles O57: a reset and a wait make no call, and a command's step makes those of its sequencer value. -/
theorem transportCallsComeInOrder : Obligations.TransportCallsComeInOrder := by
  intro s t h
  obtain ⟨-, rfl⟩ | ⟨-, -, ⟨-, rfl⟩ | ⟨i, -, he⟩⟩ := step_next h
  · exact .inl rfl
  · exact .inl rfl
  · exact exec_callsInOrder (s := sampled s) he

/-! ### A command that the decoder fails, end to end (R254, R258, R260) -/

/-- Settles O35: accept, the decoder's failure and deliver, of which none touches the transport. -/
theorem failedCommandTransactionTouchesNoTransport : Obligations.FailedCommandTransactionTouchesNoTransport := by
  intro s o i k n hf hresets hcfg ho hdec hforce hother htakes
  have hserved : Served i o s := ⟨hf, hresets, hcfg, ho, hdec⟩
  have hfails : exec i (accepted i o s) = .next (fail k (accepted i o s)) :=
    decoderFailureMakesNoTransportCall i (accepted i o s) k rfl hforce hother
  have hbuilding : Running i (accepted i o s) := ⟨nofun, hresets, hcfg, rfl⟩
  have hfailed : Running i (fail k (accepted i o s)) := ⟨nofun, hresets, hcfg, rfl⟩
  have hrun := (hserved.run_succ 2).trans (run_to_handedOver hbuilding hfailed hfails (.inr rfl) htakes)
  exact ⟨_, hrun, rfl, rfl, rfl, rfl, rfl, rfl, rfl, rfl, rfl, rfl, rfl, rfl⟩

end Sys2Proof.Machine
end

section
/-! PROOFS, the exceptions. The step that enters a result state, said once for all commands: from which sequencer value,
and with which kind (60_exceptions R253 to R257). -/

namespace Sys2Proof.Machine

/-! ### The step that enters a result state -/

/-- How a step of command `i` enters `SUCCESS` or `FAILED`. -/
inductive EntersResult (i : Instr) (s t : State) : Prop
  | decoderFailure (f : ResKind) (building : s.fsm = .building) (built : buildOf i s = .failed f) (failed : t = fail f s)
  | transmitFailure (kind : t.resKind = .transmitFailure)
  | timeout (kind : t.resKind = .timeout)
  | badResponse (read : isRead i.op = true) (kind : t.resKind = .checksumMismatch ∨ t.resKind = .malformedResponse)
  | notAcknowledged (noRead : isRead i.op = false) (kind : t.resKind = .notAcknowledged)
  | success (entered : t.fsm = .success) (kind : t.resKind = .success)

theorem buildAndTransmit_entersResult {i : Instr} {s t : State} (hf : s.fsm = .building)
    (h : buildAndTransmit (buildOf i) s = .next t) (ht : resultOffered t.fsm = true) : EntersResult i s t := by
  obtain ⟨f, hb, rfl⟩ | ⟨b, -, hsent⟩ := buildAndTransmit_next h
  · exact .decoderFailure f hf hb rfl
  obtain ⟨frame, -, ⟨-, rfl⟩ | ⟨fs, -, rfl⟩ | ⟨fs, -, -, rfl⟩ | ⟨fs, w, ws, -, -, -, rfl⟩ |
    ⟨fs, w, ws, -, -, -, rfl⟩⟩ := transmit_next hsent
  · simp [hf, resultOffered] at ht
  · exact .transmitFailure rfl
  · simp [hf, resultOffered] at ht
  · exact .transmitFailure rfl
  · simp [resultOffered] at ht

theorem await_entersResult {i : Instr} {s t : State} (hf : s.fsm = .awaiting) (h : await s = .next t)
    (ht : resultOffered t.fsm = true) : EntersResult i s t := by
  obtain ⟨n, -, ⟨-, rfl⟩ | ⟨a, as, -, -, rfl⟩ | ⟨b, as, -, -, rfl⟩⟩ := await_next h
  · simp [hf, resultOffered] at ht
  · exact .timeout rfl
  · simp [resultOffered] at ht

theorem validateOf_entersResult {i : Instr} {s t : State} (h : validateOf i s = .next t) : EntersResult i s t := by
  cases hread : isRead i.op with
  | true =>
    obtain ⟨store, hstore⟩ := validateOf_of_isRead hread
    obtain ⟨r, -, -, ⟨k, hk, rfl⟩ | ⟨p, u, -, -, rfl⟩⟩ := validateRead_next (hstore ▸ h)
    · exact .badResponse hread (checkResponse_error hk)
    · exact .success rfl rfl
  | false =>
    obtain ⟨b, bs, -, ⟨-, rfl⟩ | ⟨-, rfl⟩⟩ := validateAck_next (validateOf_of_not_isRead hread ▸ h)
    · exact .success rfl rfl
    · exact .notAcknowledged hread rfl

/-- No edge leads from `IDLE` to a result state (42_transactions R189). -/
theorem resultOffered_of_edge_idle {f : Fsm} (h : edge .idle f = true) : resultOffered f = false := by
  revert h
  cases f <;> decide

/-- A step into `SUCCESS` or `FAILED` from another sequencer value. -/
theorem exec_entersResult {i : Instr} {s t : State} (h : exec i s = .next t) (hs : resultOffered s.fsm = false)
    (ht : resultOffered t.fsm = true) : EntersResult i s t := by
  cases hf : s.fsm with
  | idle =>
    have hnone := resultOffered_of_edge_idle (hf ▸ exec_edge h)
    simp [hnone] at ht
  | building => exact buildAndTransmit_entersResult hf (exec_building hf ▸ h) ht
  | awaiting => exact await_entersResult hf (exec_awaiting hf ▸ h) ht
  | validating => exact validateOf_entersResult (exec_validating hf ▸ h)
  | success | failed => simp [hf, resultOffered] at hs

/-! ### The five kinds before any I/O (R254) -/

/-- No edge leads from `SUCCESS` to `FAILED` (42_transactions R189). -/
theorem resultOffered_of_edge_failed {f : Fsm} (h : edge f .failed = true) (hf : f ≠ .failed) :
    resultOffered f = false := by
  revert h hf
  cases f <;> decide

/-- Settles O16: of the ways into `FAILED` only the decoder's failure has one of the five kinds, and it is `fail`. -/
theorem preIoFailuresComeFromTheBuildStepAlone : Obligations.PreIoFailuresComeFromTheBuildStepAlone := by
  intro i s t h hs ht hpre
  have hedge : edge s.fsm .failed = true := ht ▸ exec_edge h
  cases exec_entersResult h (resultOffered_of_edge_failed hedge hs) (by rw [ht]; rfl) with
  | decoderFailure f hf _ hfail => exact ⟨hf, by rw [hfail]; rfl⟩
  | transmitFailure hk | timeout hk | notAcknowledged _ hk | success _ hk => simp [hk, preIo] at hpre
  | badResponse _ hk => obtain hk | hk := hk <;> simp [hk, preIo] at hpre

/-! ### Every kind that a command ends with is marked for it (R257) -/

/-- The table of R257 marks kind `f` for an operation on registers of kind `k`. -/
def Marked (op : Op) (k : Kind) (f : ResKind) : Prop :=
  canEndWith op f = true ∧ (f = .incorrectAddressFormat → k = .inputContact ∨ k = .outputContact)

/-- A kind that every command of the operation can end with is marked, on registers of any kind. -/
theorem marked_of_canEndWith {op : Op} {k : Kind} {f : ResKind} (h : canEndWith op f = true)
    (hf : f ≠ .incorrectAddressFormat) : Marked op k f := ⟨h, fun he => absurd he hf⟩

/-- Under a well-formed map only the number base 8 of the contact kinds leaves a digit to fail on (20_memory R54). -/
theorem contact_of_digit {m : RegMap} {k : Kind} {a : Nat} (hm : regMapWf m = true)
    (h : a % 10 > (mapEntry m k).nbase - 1) : k = .inputContact ∨ k = .outputContact := by
  have he := regMapWf_entry hm k
  simp only [entryWf, Bool.and_eq_true, beq_iff_eq] at he
  obtain ⟨⟨⟨hbase, -⟩, -⟩, -⟩ := he
  by_contra hk
  rw [hbase, wantedBase, if_neg (mt (octalStyle_iff k).mp hk)] at h
  omega

theorem kindClass_of_contact {k : Kind} (h : k = .inputContact ∨ k = .outputContact) : kindClass k = .bit := by
  obtain rfl | rfl := h <;> rfl

theorem linearOf_fail_marked {m : RegMap} {op : Op} {k : Kind} {a : Nat} {f : ResKind} (hm : regMapWf m = true)
    (hk : kindClass k = opClass op) (h : linearOf k (mapEntry m k) a = .fail f) : Marked op k f := by
  obtain ⟨rfl, hdigit⟩ | ⟨rfl, -⟩ := linearOf_fail h
  · have hcontact := contact_of_digit hm hdigit
    have hbit : opClass op = .bit := hk ▸ kindClass_of_contact hcontact
    exact ⟨by simp [canEndWith, hbit], fun _ => hcontact⟩
  · exact marked_of_canEndWith rfl nofun

theorem checkSpan_fail_marked {op : Op} {k : Kind} {r : Resolved} {f : ResKind} (hop : isForce op = false)
    (h : checkSpan op r = .fail f) : Marked op k f := by
  obtain ⟨rfl, -⟩ | ⟨rfl, rfl, -⟩ := checkSpan_fail h
  · exact marked_of_canEndWith (by simp [canEndWith, hop]) nofun
  · exact marked_of_canEndWith rfl nofun

theorem opClass_of_isForce {op : Op} (h : isForce op = true) : opClass op = .bit := by
  revert h
  cases op <;> decide

/-- Either decoder function fails a command with a kind that is marked for it. -/
theorem buildOf_failed_marked {i : Instr} {s : State} {f : ResKind} (hcfg : cfgWf s.cfg = true)
    (h : buildOf i s = .failed f) : Marked i.op i.kind f := by
  obtain ⟨hforce, hf⟩ | ⟨hforce, hf⟩ := buildOf_failed h
  · obtain ⟨rfl, -⟩ | ⟨hk, hlin⟩ := resolveForce_fail hf
    · exact marked_of_canEndWith rfl nofun
    · exact linearOf_fail_marked hcfg (hk.trans (opClass_of_isForce hforce).symm) hlin
  · obtain ⟨rfl, -⟩ | ⟨hk, hlin⟩ | ⟨-, lin, -, hspan⟩ := resolve_fail hf
    · exact marked_of_canEndWith rfl nofun
    · exact linearOf_fail_marked hcfg (kindClass_of_admits hk) hlin
    · exact checkSpan_fail_marked hforce hspan

theorem entersResult_marked {i : Instr} {s t : State} (hcfg : cfgWf s.cfg = true) (h : EntersResult i s t) :
    Marked i.op i.kind t.resKind := by
  cases h with
  | decoderFailure f _ hb hfail => exact hfail ▸ buildOf_failed_marked hcfg hb
  | transmitFailure hk | timeout hk | success _ hk => exact hk ▸ marked_of_canEndWith rfl nofun
  | badResponse hread hk => obtain hk | hk := hk <;> exact hk ▸ marked_of_canEndWith hread nofun
  | notAcknowledged hread hk => exact hk ▸ marked_of_canEndWith (by simp [canEndWith, hread]) nofun

end Sys2Proof.Machine
end

section
/-! PROOFS, the exceptions. Every entry of the table of R257 ends a step of some command: from reset, a command is
offered, accepted, sent and answered, and each step on the way keeps the invariant. -/

namespace Sys2Proof.Machine

/-- A step of command `i` ends with kind `f`, from a busy state that meets the invariant and has `i` latched. -/
def CanEnd (i : Instr) (f : ResKind) : Prop :=
  ∃ s t, BlockInv s ∧ s.fsm ≠ .idle ∧ s.cmd = some (commandLatch i) ∧ resultOffered s.fsm = false ∧
    exec i s = .next t ∧ resultOffered t.fsm = true ∧ t.resKind = f

/-- A state that meets the invariant, under the configuration of `State.reset`, with command `i` at sequencer value
`f`. -/
structure At (i : Instr) (f : Fsm) (s : State) : Prop where
  inv : BlockInv s
  cfg : s.cfg = defaultCfg
  cmd : s.cmd = some (commandLatch i)
  fsm : s.fsm = f

theorem At.regmap {i : Instr} {f : Fsm} {s : State} (h : At i f s) : s.cfg.regmap = testMap := by
  rw [h.cfg]; rfl

theorem At.step {i : Instr} {f : Fsm} {s t : State} (h : At i f s) (he : exec i s = .next t) (hcmd : t.cmd = s.cmd) :
    At i t.fsm t :=
  ⟨exec_keeps_inv h.inv (fun _ => h.cmd) he, (exec_cfg he).trans h.cfg, hcmd.trans h.cmd, rfl⟩

theorem At.canEnd {i : Instr} {f : Fsm} {s t : State} (h : At i f s) (hbusy : f ≠ .idle)
    (hf : resultOffered f = false) (he : exec i s = .next t) (ht : resultOffered t.fsm = true) :
    CanEnd i t.resKind :=
  ⟨s, t, h.inv, h.fsm ▸ hbusy, h.cmd, h.fsm ▸ hf, he, ht, rfl⟩

/-! ### Building -/

/-- The state of reset with command `i` offered, no data lane set. -/
def offering (i : Instr) : State := { State.reset with offers := [⟨encode i, 0⟩] }

theorem exists_at_building (i : Instr) : ∃ s, At i .building s := by
  have he : exec i (offering i) = .next (accepted i ⟨encode i, 0⟩ (offering i)) := exec_accepts i rfl rfl
  have hinv : BlockInv (offering i) := invariantHoldsAtReset
  exact ⟨_, exec_keeps_inv hinv (fun hbusy => absurd rfl hbusy) he, rfl, rfl, rfl⟩

/-- The decoder fails command `i` with kind `f`. -/
def DecoderFails (m : RegMap) (i : Instr) (f : ResKind) : Prop :=
  (isForce i.op = true → resolveForce m i.kind i.addr.toNat = .fail f) ∧
    (isForce i.op = false → resolve m i.op i.kind i.addr.toNat i.len.toNat = .fail f)

/-- The decoder passes command `i`. -/
def DecoderPasses (m : RegMap) (i : Instr) : Prop :=
  (isForce i.op = true → ∃ r, resolveForce m i.kind i.addr.toNat = .ok r) ∧
    (isForce i.op = false → ∃ r, resolve m i.op i.kind i.addr.toNat i.len.toNat = .ok r)

theorem canEnd_of_decoderFails {i : Instr} {f : ResKind} (h : DecoderFails testMap i f) : CanEnd i f := by
  obtain ⟨hforce, hother⟩ := h
  obtain ⟨s, hs⟩ := exists_at_building i
  rw [← hs.regmap] at hforce hother
  exact hs.canEnd nofun rfl (decoderFailureMakesNoTransportCall i s f hs.fsm hforce hother) rfl

/-- A command that the decoder passes is built: nothing fails or refuses it, and no value misses its field. -/
theorem At.exists_ready {i : Instr} {s : State} (h : At i .building s) (hp : DecoderPasses testMap i) :
    ∃ b, buildOf i s = .ready b := by
  obtain ⟨hforce, hother⟩ := hp
  obtain ⟨hcfg, -, hlatch, -, -⟩ := h.inv
  obtain ⟨hbits, hwords⟩ := latchShape_data hlatch (by simp [h.fsm]) h.cmd
  cases hb : buildOf i s with
  | ready b => exact ⟨b, rfl⟩
  | fault f => exact absurd hb (buildOf_ne_fault hcfg hbits hwords)
  | failed f =>
    obtain ⟨hop, hf⟩ | ⟨hop, hf⟩ := buildOf_failed hb
    · obtain ⟨r, hr⟩ := hforce hop
      simp [h.regmap, hr] at hf
    · obtain ⟨r, hr⟩ := hother hop
      simp [h.regmap, hr] at hf
  | refused x =>
    obtain ⟨-, hop, hlen⟩ := buildOf_refused hb
    obtain ⟨r, hr⟩ := hother hop
    exact absurd hlen (resolve_ok hr).1

/-- The invariant speaks of no answer of the transport. -/
theorem At.withAnswers {i : Instr} {f : Fsm} {s : State} (h : At i f s) (fs : List Bool) (ws : List Int) :
    At i f (withAnswers fs ws s) := ⟨h.inv, h.cfg, h.cmd, h.fsm⟩

theorem canEnd_transmitFailure {i : Instr} (hp : DecoderPasses testMap i) : CanEnd i .transmitFailure := by
  obtain ⟨s, hs⟩ := exists_at_building i
  obtain ⟨b, hb⟩ := hs.exists_ready hp
  obtain ⟨hframe, -⟩ := buildOf_ready_ports hb
  have he := (exec_withAnswers hs.fsm hb).trans
    (transmit_of_flush_failed (s := Machine.withAnswers [false] [] b) hframe rfl)
  exact (hs.withAnswers [false] []).canEnd nofun rfl he rfl

/-! ### Awaiting -/

theorem exists_at_awaiting {i : Instr} (hp : DecoderPasses testMap i) (as : List ReadAnswer) :
    ∃ s, At i .awaiting s ∧ s.readAnswers = as := by
  obtain ⟨s, hs⟩ := exists_at_building i
  obtain ⟨b, hb⟩ := hs.exists_ready hp
  obtain ⟨hframe, -⟩ := buildOf_ready_ports hb
  have he := (exec_withAnswers hs.fsm hb).trans
    (transmit_eq_sent (s := Machine.withAnswers [true] [(b.tx.length : Int)] b) hframe rfl rfl)
  have hcmd : b.cmd = s.cmd := by
    obtain ⟨ra, sp, exp, body, -, rfl⟩ := buildOf_ready_frame hb
    rfl
  obtain ⟨hinv, hcfg, hcmd, hfsm⟩ := (hs.withAnswers [true] [(b.tx.length : Int)]).step he hcmd
  exact ⟨{ sent b.tx [] [] b with readAnswers := as }, ⟨hinv, hcfg, hcmd, rfl⟩, rfl⟩

theorem At.resolved {i : Instr} {s : State} (h : At i .awaiting s) : resolvedShape s.cfg.regmap (commandLatch i) s := by
  obtain ⟨-, -, -, -, hsent⟩ := h.inv
  exact sentShape_resolved hsent h.cmd (.inl h.fsm)

theorem canEnd_timeout {i : Instr} (hp : DecoderPasses testMap i) : CanEnd i .timeout := by
  obtain ⟨s, hs, has⟩ := exists_at_awaiting hp [.error]
  obtain ⟨n, hexp, -⟩ := resolvedShape_rxExp hs.resolved
  exact hs.canEnd nofun rfl (exec_times_out i hs.fsm hexp has (.inl rfl)) rfl

/-! ### Validating -/

/-- The block takes any response of the length it expects. -/
theorem At.receives {i : Instr} {s : State} {n : BitVec 8} {r : List Byte} (h : At i .awaiting s)
    (hexp : s.rxExp = some n) (hlen : r.length = n.toNat) :
    ∃ v, At i .validating v ∧ received v = some r := by
  have hs : At i .awaiting { s with readAnswers := [.bytes r] } := ⟨h.inv, h.cfg, h.cmd, h.fsm⟩
  have he := exec_receives i hs.fsm hexp rfl hlen.ge
  have hv := hs.step he rfl
  obtain ⟨hrec, -⟩ := received_of_blockInv hv.inv rfl hexp
  refine ⟨_, hv, hrec.trans ?_⟩
  simp [answered, ← hlen]

theorem canEnd_of_acknowledgement {i : Instr} (hp : DecoderPasses testMap i) (hread : isRead i.op = false) (b : Byte) :
    CanEnd i (if b = ackByte then .success else .notAcknowledged) := by
  obtain ⟨s, hs, -⟩ := exists_at_awaiting hp []
  obtain ⟨v, hv, hrec⟩ := hs.receives (r := [b]) (resolvedShape_ack hs.resolved hread) rfl
  have he : exec i v = .next (acknowledged b v) := by
    rw [exec_validating hv.fsm, validateOf_of_not_isRead hread, validateAck_eq hrec]
  have hf : resultOffered (acknowledged b v).fsm = true := by
    obtain hf | hf := acknowledged_fsm b v <;> rw [hf] <;> rfl
  exact hv.canEnd nofun rfl he hf

/-- A response with the data bytes `p`, the first byte `a`, and a checksum field for a sum that is off by `d`. -/
def responseWith (a d : Byte) (p : List Byte) : List Byte :=
  a :: ((hexs p ++ [etx]) ++ hex2 (sum8 (hexs p ++ [etx]) + d))

theorem responseWith_length (a d : Byte) (p : List Byte) : (responseWith a d p).length = 4 + 2 * p.length := by
  simp [responseWith]
  omega

theorem responseWith_stx_zero (p : List Byte) : responseWith stx 0 p = readResponse p := by
  simp [responseWith, readResponse]

/-- The checksum field stands for the sum of the span exactly if it is off by nothing. -/
theorem csMatch_responseWith_iff (a d : Byte) (p : List Byte) : csMatch .both (responseWith a d p) = true ↔ d = 0 := by
  rw [responseWith, csMatch_both_cons_append_iff a _ (hex2_length _)]
  constructor
  · exact fun h => by simpa using hex2_injective h
  · rintro rfl
    simp

theorem checkResponse_bad_sum (p : List Byte) :
    checkResponse defaultCfg (responseWith stx 1 p) = .error .checksumMismatch :=
  checkResponse_of_csMatch_ne (mt (csMatch_responseWith_iff stx 1 p).mp (by decide))

theorem checkResponse_no_stx (p : List Byte) :
    checkResponse defaultCfg (responseWith 0 0 p) = .error .malformedResponse := by
  refine checkResponse_of_markers ((csMatch_responseWith_iff 0 0 p).mpr rfl) rfl fun hm => ?_
  obtain ⟨hstx, -⟩ := (markersOk_iff _).mp hm
  simp [responseWith] at hstx

/-- A read takes a response with as many data bytes as were resolved. -/
theorem exists_at_validating_read {i : Instr} (hp : DecoderPasses testMap i) (hread : isRead i.op = true) (a d : Byte) :
    ∃ v p, At i .validating v ∧ received v = some (responseWith a d p) := by
  obtain ⟨s, hs, -⟩ := exists_at_awaiting hp []
  obtain ⟨r, n, -, -, hexp, hn, -⟩ := resolvedShape_read hs.resolved hread
  obtain ⟨v, hv, hrec⟩ := hs.receives (r := responseWith a d (List.replicate r.bc 0)) hexp
    (by rw [responseWith_length, List.length_replicate, hn])
  exact ⟨v, _, hv, hrec⟩

theorem canEnd_bad_response {i : Instr} {a d : Byte} {f : ResKind} (hp : DecoderPasses testMap i)
    (hread : isRead i.op = true) (hbad : ∀ p, checkResponse defaultCfg (responseWith a d p) = .error f) :
    CanEnd i f := by
  obtain ⟨v, p, hv, hrec⟩ := exists_at_validating_read hp hread a d
  have hlen : 4 ≤ (responseWith a d p).length := by rw [responseWith_length]; omega
  exact hv.canEnd nofun rfl (exec_fails_response hread hv.fsm hrec hlen (hv.cfg ▸ hbad p)) rfl

theorem At.exists_validated {i : Instr} {v : State} (h : At i .validating v) : ∃ t, validateOf i v = .next t := by
  cases ht : validateOf i v with
  | next t => exact ⟨t, rfl⟩
  | fault f => exact absurd ht (validateOf_ne_fault h.inv h.fsm h.cmd)
  | refused x => exact absurd ht (validateOf_ne_refused i v x)

theorem canEnd_read_success {i : Instr} (hp : DecoderPasses testMap i) (hread : isRead i.op = true) :
    CanEnd i .success := by
  obtain ⟨v, p, hv, hrec⟩ := exists_at_validating_read hp hread stx 0
  rw [responseWith_stx_zero] at hrec
  obtain ⟨t, ht⟩ := hv.exists_validated
  obtain ⟨store, hstore⟩ := validateOf_of_isRead hread
  obtain ⟨r, hr, -, ⟨k, hk, -⟩ | ⟨q, u, -, -, rfl⟩⟩ := validateRead_next (hstore ▸ ht)
  · obtain rfl := Option.some.inj (hrec.symm.trans hr)
    simp [checkResponse_readResponse] at hk
  · exact hv.canEnd nofun rfl ((exec_validating hv.fsm).trans ht) rfl

/-! ### One command for each entry of the table -/

@[simp] theorem mkInstr_op (op : Op) (k : Kind) (a n : Word) : (mkInstr op k a n).op = op := by
  cases op <;> rfl

/-- A kind that an operation admits (30_encoding R98). -/
def admittedKind (op : Op) : Kind :=
  match opClass op with
  | .bit => .memoryContact
  | .w16 => .data
  | .w32 => .counter32

/-- A kind outside the class that an operation admits (30_encoding R98). -/
def otherKind (op : Op) : Kind :=
  match opClass op with
  | .bit => .data
  | .w16 | .w32 => .memoryContact

/-- A command of one bit or register at user address 200, which the map of `State.reset` has for every kind admitted. -/
def passedCommand (op : Op) : Instr := mkInstr op (admittedKind op) 200 1

@[simp] theorem passedCommand_op (op : Op) : (passedCommand op).op = op := mkInstr_op op _ _ _

theorem passedCommand_passes (op : Op) : DecoderPasses testMap (passedCommand op) := by
  cases op with
  | readBits | writeBits | readW16 | readW32 | writeW16 => exact ⟨nofun, fun _ => ⟨_, rfl⟩⟩
  | forceSet | forceClear => exact ⟨fun _ => ⟨_, rfl⟩, nofun⟩

/-- A command that ends with a kind: one that the decoder fails with it, or the one that the decoder passes. -/
def endingCommand (op : Op) : ResKind → Instr
  | .incorrectDataType => mkInstr op (otherKind op) 200 1
  | .incorrectAddressFormat => mkInstr op .inputContact 8 1
  | .addressOutOfRange => mkInstr op (admittedKind op) 0xFFFF 1
  | .tooManyBytes => mkInstr op (admittedKind op) 200 600
  | .addressMisaligned => mkInstr op (admittedKind op) 201 1
  | .success | .transmitFailure | .timeout | .checksumMismatch | .notAcknowledged | .inProgress | .malformedResponse =>
    passedCommand op

theorem endingCommand_op (op : Op) (f : ResKind) : (endingCommand op f).op = op := by
  cases f <;> exact mkInstr_op op _ _ _

theorem endingCommand_fails {op : Op} {f : ResKind} (hf : preIo f = true) (h : canEndWith op f = true) :
    DecoderFails testMap (endingCommand op f) f := by
  unfold DecoderFails
  revert h
  cases f with
  | incorrectDataType | incorrectAddressFormat | addressOutOfRange | tooManyBytes | addressMisaligned =>
    cases op <;> decide
  | success | transmitFailure | timeout | checksumMismatch | notAcknowledged | inProgress | malformedResponse =>
    simp [preIo] at hf

theorem passedCommand_canEnd_success (op : Op) : CanEnd (passedCommand op) .success := by
  have hp := passedCommand_passes op
  cases hread : isRead op with
  | true => exact canEnd_read_success hp (by simpa using hread)
  | false => exact canEnd_of_acknowledgement hp (by simpa using hread) ackByte

theorem endingCommand_canEnd {op : Op} {f : ResKind} (h : canEndWith op f = true) : CanEnd (endingCommand op f) f := by
  have hp := passedCommand_passes op
  cases f with
  | incorrectDataType | incorrectAddressFormat | addressOutOfRange | tooManyBytes | addressMisaligned =>
    exact canEnd_of_decoderFails (endingCommand_fails rfl h)
  | transmitFailure => exact canEnd_transmitFailure hp
  | timeout => exact canEnd_timeout hp
  | checksumMismatch => exact canEnd_bad_response hp (by rw [endingCommand_op]; exact h) checkResponse_bad_sum
  | malformedResponse => exact canEnd_bad_response hp (by rw [endingCommand_op]; exact h) checkResponse_no_stx
  | notAcknowledged => exact canEnd_of_acknowledgement hp (by simpa [canEndWith] using h) nakByte
  | success => exact passedCommand_canEnd_success op
  | inProgress => simp [canEndWith] at h

/-- Settles O58: the ways into a result state have marked kinds alone, and each marked kind ends a command that is
offered after reset and, unless the decoder fails it, sent and answered. -/
theorem commandsEndWithTheKindsOfTheTable : Obligations.CommandsEndWithTheKindsOfTheTable := by
  refine ⟨fun i s t hcfg h hs ht => entersResult_marked hcfg (exec_entersResult h hs ht), fun op f hf => ?_⟩
  obtain ⟨s, t, hend⟩ := endingCommand_canEnd hf
  exact ⟨endingCommand op f, s, t, endingCommand_op op f, hend⟩

end Sys2Proof.Machine
end

section
/-! PROOFS, reset and hazards. What a step makes of the reset input and of the check of the configuration, and that a
step outside `IDLE` neither reads nor writes the command port (70_reset_and_hazards R290, R293, R298). -/

namespace Sys2Proof.Machine

/-! ### Reset and the check of the configuration (R290, R293) -/

theorem step_of_reset {s : State} (h : resetAsserted s = true) : step s = .next (resetBlock (sampled s)) := if_pos h

theorem resetAsserted_of_cons {s : State} {b : Bool} {rest : List Bool} (h : s.resets = b :: rest) :
    resetAsserted s = b := by
  rw [resetAsserted, h, List.headD_cons]

/-- Settles O7: the state that the reset step answers is `State.reset`, but for `cfg` and what stands at the ports. -/
theorem resetInAnyStateSetsEveryField : Obligations.ResetInAnyStateSetsEveryField := by
  intro s rest hs
  have hrest : (sampled s).resets = rest := by rw [sampled_resets, hs, List.tail_cons]
  rw [step_of_reset (resetAsserted_of_cons hs), ← hrest]
  rfl

/-- Settles O9: the configuration is checked next after the reset input. -/
theorem illFormedConfigurationIsRefused : Obligations.IllFormedConfigurationIsRefused := by
  intro s hreset hcfg
  rw [step, if_neg (by simp [hreset]), if_pos (by simp [hcfg])]

/-! ### No part of a busy command's step touches the command port (R298, 42_transactions R171) -/

/-- What a build answers, with its ready state changed by `f`. -/
def mapReady (f : State → State) : Built → Built
  | .ready b => .ready (f b)
  | .refused r => .refused r
  | .fault x => .fault x
  | .failed k => .failed k

section
variable (os : List Offer) (ts : List Nat) (s : State)

/-! #### Build -/

theorem latchResolved_withPort (r : Resolved) :
    latchResolved r (withPort os ts s) = (latchResolved r s).map (withPort os ts) := by
  unfold latchResolved
  split <;> rfl

theorem latchResolvedBit_withPort (r : ResolvedBit) :
    latchResolvedBit r (withPort os ts s) = (latchResolvedBit r s).map (withPort os ts) := by
  unfold latchResolvedBit
  split <;> rfl

theorem loadFrame_withPort (body : List Byte) (n : Nat) :
    loadFrame body n (withPort os ts s) = (loadFrame body n s).map (withPort os ts) := by
  unfold loadFrame
  split <;> rfl

theorem loadRequest_withPort (l : Option State) (body : List Byte) (n : Nat) :
    loadRequest (l.map (withPort os ts)) body n = mapReady (withPort os ts) (loadRequest l body n) := by
  cases l with
  | none => rfl
  | some u =>
    simp only [loadRequest, Option.map_some, Option.bind_some, loadFrame_withPort]
    cases loadFrame body n u <;> rfl

theorem buildRead_withPort (op : Op) (k : Kind) (a n : Word) :
    buildRead op k a n (withPort os ts s) = mapReady (withPort os ts) (buildRead op k a n s) := by
  simp only [buildRead, withPort_cfg, latchResolved_withPort, loadRequest_withPort]
  cases resolve s.cfg.regmap op k a.toNat n.toNat <;> rfl

theorem buildWrite_withPort (op : Op) (k : Kind) (a n : Word) {payload : State → Option (List Byte)}
    (hp : payload (withPort os ts s) = payload s) :
    buildWrite op k a n payload (withPort os ts s) = mapReady (withPort os ts) (buildWrite op k a n payload s) := by
  simp only [buildWrite, withPort_cfg, hp, latchResolved_withPort, loadRequest_withPort]
  cases resolve s.cfg.regmap op k a.toNat n.toNat with
  | ok r => cases payload s <;> rfl
  | fail | refuse => rfl

theorem buildForce_withPort (c : Byte) (k : Kind) (a : Word) :
    buildForce c k a (withPort os ts s) = mapReady (withPort os ts) (buildForce c k a s) := by
  simp only [buildForce, withPort_cfg, latchResolvedBit_withPort, loadRequest_withPort]
  cases resolveForce s.cfg.regmap k a.toNat <;> rfl

theorem buildOf_withPort (i : Instr) :
    buildOf i (withPort os ts s) = mapReady (withPort os ts) (buildOf i s) := by
  cases i with
  | readBits | readW16 | readW32 => exact buildRead_withPort ..
  | writeBits | writeW16 => exact buildWrite_withPort (hp := rfl) ..
  | forceSet | forceClear => exact buildForce_withPort ..

/-! #### Transmit and await -/

theorem requestFrame_withPort : requestFrame (withPort os ts s) = requestFrame s := rfl

theorem transmit_withPort (b : State) :
    transmit (withPort os ts s) (withPort os ts b) = mapNext (withPort os ts) (transmit s b) := by
  simp only [transmit, requestFrame_withPort, withPort_flushAnswers, withPort_writeAnswers]
  cases requestFrame b with
  | none => rfl
  | some frame =>
    match b.flushAnswers, b.writeAnswers with
    | [], _ | false :: _, _ | true :: _, [] => rfl
    | true :: _, w :: _ => dsimp only; split <;> rfl

theorem buildAndTransmit_withPort (i : Instr) :
    buildAndTransmit (buildOf i) (withPort os ts s) = mapNext (withPort os ts) (buildAndTransmit (buildOf i) s) := by
  simp only [buildAndTransmit, buildOf_withPort]
  cases buildOf i s with
  | ready b => exact transmit_withPort os ts s b
  | refused | fault | failed => rfl

theorem await_withPort : await (withPort os ts s) = mapNext (withPort os ts) (await s) := by
  simp only [await, withPort_rxExp, withPort_readAnswers]
  cases s.rxExp with
  | none => rfl
  | some n =>
    match s.readAnswers with
    | [] | .error :: _ => rfl
    | .bytes b :: _ => dsimp only; split <;> rfl

/-! #### Validate and deliver -/

theorem received_withPort : received (withPort os ts s) = received s := rfl

theorem validateAck_withPort : validateAck (withPort os ts s) = mapNext (withPort os ts) (validateAck s) := by
  simp only [validateAck, received_withPort]
  match received s with
  | none | some [] => rfl
  | some (b :: _) => dsimp only; split <;> rfl

theorem storeBits_withPort (n : Word) (p : List Byte) :
    storeBits n p (withPort os ts s) = (storeBits n p s).map (withPort os ts) := by
  simp only [storeBits, withPort_raAddr, withPort_cfg]
  cases s.raAddr with
  | none => rfl
  | some ra => dsimp only; cases unpackBits s.cfg.readBitsOrigin ra.lin n.toNat p <;> rfl

theorem storeWords_withPort (n : Nat) (p : List Byte) :
    storeWords n p (withPort os ts s) = (storeWords n p s).map (withPort os ts) := by
  unfold storeWords
  cases bytesToWords n p <;> rfl

theorem validateRead_withPort {store : List Byte → State → Option State}
    (hstore : ∀ p, store p (withPort os ts s) = (store p s).map (withPort os ts)) :
    validateRead store (withPort os ts s) = mapNext (withPort os ts) (validateRead store s) := by
  simp only [validateRead, received_withPort, withPort_cfg, hstore]
  cases received s with
  | none => rfl
  | some r =>
    dsimp only
    split
    · rfl
    · cases checkResponse s.cfg r with
      | error k => rfl
      | ok p => dsimp only; cases store p s <;> rfl

theorem validateOf_withPort (i : Instr) :
    validateOf i (withPort os ts s) = mapNext (withPort os ts) (validateOf i s) := by
  cases i with
  | readBits => exact validateRead_withPort (hstore := storeBits_withPort os ts s _) ..
  | readW16 | readW32 => exact validateRead_withPort (hstore := storeWords_withPort os ts s _) ..
  | writeBits | writeW16 | forceSet | forceClear => exact validateAck_withPort os ts s

theorem deliver_withPort (p : Payload) :
    deliver p (withPort os ts s) = mapNext (withPort os ts) (deliver p s) := by
  simp only [deliver, withPort_takes]
  cases s.takes <;> rfl

theorem payloadOf_withPort (i : Instr) : payloadOf i (withPort os ts s) = payloadOf i s := by
  cases i <;> rfl

end

/-- Settles O12: of the parts of a transaction only accept reads or writes the command port. -/
theorem commandPortHasNoEffectOnARunningTransaction : Obligations.CommandPortHasNoEffectOnARunningTransaction := by
  intro i s os ts hbusy
  have hport : (withPort os ts s).fsm = s.fsm := withPort_fsm os ts s
  cases hf : s.fsm with
  | idle => exact absurd hf hbusy
  | building =>
    rw [exec_building hf, exec_building (hport.trans hf)]
    exact buildAndTransmit_withPort os ts s i
  | awaiting =>
    rw [exec_awaiting hf, exec_awaiting (hport.trans hf)]
    exact await_withPort os ts s
  | validating =>
    rw [exec_validating hf, exec_validating (hport.trans hf)]
    exact validateOf_withPort os ts s i
  | success =>
    rw [exec_success hf, exec_success (hport.trans hf), payloadOf_withPort]
    exact deliver_withPort os ts s _
  | failed =>
    rw [exec_failed hf, exec_failed (hport.trans hf)]
    exact deliver_withPort os ts s _

end Sys2Proof.Machine
end

section
/-! PROOFS, the step of a command. What a fetch finds when a command is offered or latched, and the step that follows
(42_transactions R171, 10_state R23). -/

namespace Sys2Proof.Machine

theorem fetch_of_offered {s : State} {o : Offer} {i : Instr} (hidle : s.fsm = .idle) (ho : offered s = some o)
    (hd : decode o.word = .ok i) : fetch s = .command i := by
  simp only [fetch, if_pos hidle, ho, hd]

theorem fetch_of_latched {s : State} {i : Instr} (hbusy : s.fsm ≠ .idle) (hcmd : s.cmd = some (commandLatch i)) :
    fetch s = .command i := by
  simp only [fetch, if_neg hbusy, hcmd, latchedInstr, mkInstr_fields]

/-- Settles O6: with reset released and a well-formed map the step runs the command fetched, and the fetch finds the
command offered in `IDLE` and the one latched outside it. -/
theorem stepRunsTheDecodedCommand : Obligations.StepRunsTheDecodedCommand := by
  constructor
  · intro s o i hreset hcfg hidle ho hd
    exact step_eq_exec hreset hcfg (fetch_of_offered hidle ho hd)
  · intro s i hreset hcfg hbusy hcmd
    exact step_eq_exec hreset hcfg (fetch_of_latched hbusy hcmd)

end Sys2Proof.Machine
end
